-- ==== Sys2Proof/Word.lean ====
section
/-! DEFINITION. The 32-bit word of every register, transfer and frame, and the index types of the block. -/

namespace Sys2Proof

/-- A register, a transfer or one word of a frame (spec/00_scope.md R6: `ACCESS_BITS`, `XFER_BITS`). -/
abbrev Word := BitVec 32

/-- The 8-bit operand fields `a` and `b` of a frame (spec/30_encoding.md R103). -/
abbrev Field8 := BitVec 8

/-- A raw ADC sample code, 0 to 65535 (spec/43_adc_codec.md R206). -/
abbrev Code := BitVec 16

/-- A GPIO line number, 0 to 191 (spec/00_scope.md R6: `NLINES`). -/
abbrev Line := Fin 192

/-- A register bank, 0 to 5 (spec/00_scope.md R6: `NBANKS`). -/
abbrev BankIdx := Fin 6

/-- A stepper drive channel, zero-based (spec/00_scope.md R6: `NDRIVES`). -/
abbrev Drive := Fin 6

/-- A USB port, zero-based (spec/00_scope.md R6: `NUSB`). -/
abbrev Usb := Fin 7

/-- An ADC device behind the mux lines (spec/00_scope.md R6: `ADC_NDEV`). -/
abbrev AdcDev := Fin 2

/-- An ADC channel index (spec/00_scope.md R6: `ADC_NIDX`). -/
abbrev AdcChan := Fin 12

end Sys2Proof
end

