-- ==== Sys2Proof/Machine/Binary64.lean ====
section
/-! DEFINITION. Rounding of an exact non-negative rational, and of the square root of one, to IEEE 754 binary64, to nearest
with ties to even (spec/43_adc_codec.md R207, spec/46_measurement.md R279). PRESUMED: the binary64 layout (log 18,
spec/93_implementation_defined.md G5). -/

namespace Sys2Proof.Machine

/-- `num * 2^(-q)`, as the numerator of a fraction over `scaleDen den q`. -/
def scaleNum (num : Nat) (q : Int) : Nat := num * 2 ^ (-q).toNat

/-- The denominator that goes with `scaleNum`. -/
def scaleDen (den : Nat) (q : Int) : Nat := den * 2 ^ q.toNat

/-- `floor(log2 (num / den))` of a positive rational. -/
def ilog2 (num den : Nat) : Int :=
  let e : Int := (Nat.log2 num : Int) - (Nat.log2 den : Int)
  if scaleDen den e ≤ scaleNum num e then e else e - 1

/-- The exponent of the last bit of a binary64 significand whose leading bit has exponent `e`. -/
def lastBit (e : Int) : Int := max (e - 52) (-1074)

/-- The natural number nearest to `num / den`, ties to even. -/
def roundHalfEven (num den : Nat) : Nat :=
  let m := num / den
  let r := num % den
  if 2 * r < den then m else if den < 2 * r then m + 1 else m + m % 2

/-- The largest `r` with `r * r ≤ n` among the numbers whose low `k` bits are still to be chosen above `acc`. -/
def isqrtBits (n : Nat) : Nat → Nat → Nat
  | 0, acc => acc
  | k + 1, acc => if (acc + 2 ^ k) * (acc + 2 ^ k) ≤ n then isqrtBits n k (acc + 2 ^ k) else isqrtBits n k acc

/-- The integer square root. -/
def isqrt (n : Nat) : Nat := isqrtBits n (Nat.log2 n / 2 + 1) 0

/-- The natural number nearest to the square root of `num / den`, ties to even. -/
def roundSqrt (num den : Nat) : Nat :=
  let m := isqrt (num / den)
  if 4 * num < (2 * m + 1) * (2 * m + 1) * den then m
  else if (2 * m + 1) * (2 * m + 1) * den < 4 * num then m + 1
  else m + m % 2

/-- The bits of the positive number `m * 2^q`, for a significand `m` of at most 53 bits (or 2^53) and a last bit `q`; beyond the
largest finite number, infinity. -/
def packBinary64 (m : Nat) (q : Int) : BitVec 64 :=
  BitVec.ofNat 64 (min ((q + 1074).toNat * 2 ^ 52 + m) (0x7FF * 2 ^ 52))

/-- `round_binary64(num / den)` (spec/43_adc_codec.md R207). -/
def roundBinary64 (num den : Nat) : BitVec 64 :=
  if num = 0 then 0
  else
    let q := lastBit (ilog2 num den)
    packBinary64 (roundHalfEven (scaleNum num q) (scaleDen den q)) q

/-- `round_binary64(sqrt(num / den))`, rounded once (spec/46_measurement.md R279). -/
def roundSqrtBinary64 (num den : Nat) : BitVec 64 :=
  if num = 0 then 0
  else
    let q := lastBit (ilog2 num den / 2)
    packBinary64 (roundSqrt (scaleNum num (2 * q)) (scaleDen den (2 * q))) q

end Sys2Proof.Machine
end

