-- ==== Sys2Proof/Config.lean ====
section
/-! DEFINITION. The parameters of spec/00_scope.md R6 and R7, the constraints R7 puts on them, the test set P0 of R8,
and the free values: opaque constants that nothing can evaluate. -/

namespace Sys2Proof

/-- The direction policy of a line (spec/10_state.md R31): −1 leave untouched, 0 configure as output, 1 as input. -/
inductive DirPolicy where
  | untouched
  | output
  | input
deriving DecidableEq, Repr, Inhabited

/-- The four microstep modes 1, 2, 4 and 8 (spec/00_scope.md R6: `USTEP_MODES`). -/
inductive UStepMode where
  | m1
  | m2
  | m4
  | m8
deriving DecidableEq, Repr

/-- One value per logical signal of spec/10_state.md R34. -/
structure SignalTable (α : Type) where
  step : Vector α 6
  dir : Vector α 6
  en : Vector α 6
  usbOff : Vector α 7
  ms1 : α
  ms2 : α
  phaseReset : α
  adcSel1 : α
  adcSel2 : α
  pwrBoard : α
  pwrEncoders : α
  pwrSensors : α
  pwrDrivebank : α
  pwrHicurrent : α
  pwrSr : α
deriving DecidableEq, Repr

/-- The same table with every entry replaced by its image. -/
def SignalTable.map {α β : Type} (f : α → β) (t : SignalTable α) : SignalTable β where
  step := #v[f (t.step.get 0), f (t.step.get 1), f (t.step.get 2), f (t.step.get 3), f (t.step.get 4), f (t.step.get 5)]
  dir := #v[f (t.dir.get 0), f (t.dir.get 1), f (t.dir.get 2), f (t.dir.get 3), f (t.dir.get 4), f (t.dir.get 5)]
  en := #v[f (t.en.get 0), f (t.en.get 1), f (t.en.get 2), f (t.en.get 3), f (t.en.get 4), f (t.en.get 5)]
  usbOff := #v[f (t.usbOff.get 0), f (t.usbOff.get 1), f (t.usbOff.get 2), f (t.usbOff.get 3), f (t.usbOff.get 4),
    f (t.usbOff.get 5), f (t.usbOff.get 6)]
  ms1 := f t.ms1
  ms2 := f t.ms2
  phaseReset := f t.phaseReset
  adcSel1 := f t.adcSel1
  adcSel2 := f t.adcSel2
  pwrBoard := f t.pwrBoard
  pwrEncoders := f t.pwrEncoders
  pwrSensors := f t.pwrSensors
  pwrDrivebank := f t.pwrDrivebank
  pwrHicurrent := f t.pwrHicurrent
  pwrSr := f t.pwrSr

/-- Every entry of the table, in the order of spec/10_state.md R34. -/
def SignalTable.entries {α : Type} (t : SignalTable α) : List α :=
  t.step.toList ++ t.dir.toList ++ t.en.toList ++ t.usbOff.toList ++
    [t.ms1, t.ms2, t.phaseReset, t.adcSel1, t.adcSel2, t.pwrBoard, t.pwrEncoders, t.pwrSensors, t.pwrDrivebank,
      t.pwrHicurrent, t.pwrSr]

/-- `USTEP_CODE`: the 2-bit code of each microstep mode, bit 0 on MS1 and bit 1 on MS2 (spec/45_motion.md R241). -/
structure UStepCode where
  c1 : BitVec 2
  c2 : BitVec 2
  c4 : BitVec 2
  c8 : BitVec 2
deriving DecidableEq, Repr

/-- `MEAS_CHAN`: the (device, channel) pair of each named quantity (spec/30_encoding.md R123). -/
structure MeasChan where
  tempOnboard : AdcDev × AdcChan
  tempExternal : AdcDev × AdcChan
  encoder : List (AdcDev × AdcChan)
  refLow : AdcDev × AdcChan
  refMid : AdcDev × AdcChan
  refHigh : AdcDev × AdcChan
deriving DecidableEq, Repr

/-- The parameters the spec leaves open (spec/00_scope.md R7), each under its own name. -/
structure Config where
  /-- `BANK_BASE[k]`. -/
  bankBase : Vector Word 6
  /-- `OFF_OE`, below 4096 by its width. -/
  offOe : BitVec 12
  /-- `OFF_DIN`. -/
  offDin : BitVec 12
  /-- `OFF_DOUT`. -/
  offDout : BitVec 12
  /-- `RESET_OE[k]`. -/
  resetOe : Vector Word 6
  /-- `RESET_DOUT[k]`. -/
  resetDout : Vector Word 6
  /-- `CONN2GPIO[p]` at index p − 1; `none` is `unassigned`. -/
  conn2gpio : Vector (Option Line) 140
  /-- `DIRPOLICY[g]`. -/
  dirPolicy : Vector DirPolicy 192
  /-- `SIGPIN[s]`: a connector pin 1..140 for each signal. -/
  sigPin : SignalTable Nat
  /-- `SPI_MODE`. -/
  spiMode : Fin 4
  /-- `SPI_SPEED_HZ`. -/
  spiSpeedHz : Nat
  cmdInit : Word
  cmdConfig : Word
  cmdReadFifo : Word
  cmdPowerDown : Word
  /-- `CMD_SELECT[c]`. -/
  cmdSelect : Vector Word 12
  /-- `SAMPLE_LSB`, 0 to 16. -/
  sampleLsb : Fin 17
  /-- `ADC_CODE_SPAN`. -/
  adcCodeSpan : Nat
  /-- `FULL_SCALE_UV`. -/
  fullScaleUv : Nat
  /-- `CLK_HZ`. -/
  clkHz : Nat
  /-- `PHASE_RESET_HZ`. -/
  phaseResetHz : Nat
  /-- `DIR_LEVEL_EXTEND`; the level for retract is its complement. -/
  dirLevelExtend : Bool
  ustepCode : UStepCode
  /-- `ADC_MUX_CODE[d]`: the levels of (SEL1, SEL2). -/
  adcMuxCode : Vector (Bool × Bool) 2
  /-- `NMAX`: the capacity of the sample buffer. -/
  nmax : Nat
  /-- `T_SETTLE`: the duration of one settle count; no rule depends on it. -/
  tSettle : Nat
  /-- `STEP_TOL`: the tolerance of a pulse; no rule depends on it and nothing reads it. -/
  stepTol : Nat
  measChan : MeasChan
deriving DecidableEq, Repr

/-- `HOME_SPREAD_UV` (spec/00_scope.md R6). -/
abbrev homeSpreadUv : Nat := 1000000

/-- `THRESH_UV` (spec/00_scope.md R6). -/
abbrev threshUv : Nat := 1750000

/-- `SPI_WORD_BITS` (spec/00_scope.md R6). -/
abbrev spiWordBits : Nat := 16

namespace Config

/-- `CONN2GPIO[p]` for a connector pin number; `none` outside 1..140 as well (spec/10_state.md R30, spec/41_pin_layout.md R161). -/
def connLine (c : Config) (p : Nat) : Option Line :=
  if h : 1 ≤ p ∧ p ≤ 140 then c.conn2gpio.get ⟨p - 1, by omega⟩ else none

/-- The resolution of the signals at reset (spec/10_state.md R32, spec/70_reset_and_hazards.md R342). A signal whose pin is
unassigned, which the constraint of R7 excludes, would resolve to line 0. DESIGN CHOICE (log 24). -/
def resolve (c : Config) : SignalTable Line :=
  c.sigPin.map fun p => (c.connLine p).getD 0

/-- `THRESH_CODE = floor(THRESH_UV * ADC_CODE_SPAN / FULL_SCALE_UV)` (spec/00_scope.md R7). -/
def threshCode (c : Config) : Nat := threshUv * c.adcCodeSpan / c.fullScaleUv

/-- No value occurs twice. -/
def distinct {α : Type} [DecidableEq α] : List α → Bool
  | [] => true
  | x :: xs => !xs.contains x && distinct xs

/-- The register windows: bases multiples of 4096 and different, so the windows are disjoint; offsets multiples of 4 and different. -/
def validWindows (c : Config) : Bool :=
  c.bankBase.toList.all (fun b => b.toNat % 4096 == 0) && distinct c.bankBase.toList
    && [c.offOe, c.offDin, c.offDout].all (fun o => o.toNat % 4 == 0) && distinct [c.offOe, c.offDin, c.offDout]

/-- The pin tables: the two entries the source gives, every signal resolved, to different lines, with policy output. -/
def validPins (c : Config) : Bool :=
  c.connLine 10 == some 185 && c.connLine 36 == none
    && c.sigPin.entries.all (fun p => (c.connLine p).isSome) && distinct c.resolve.entries
    && c.resolve.entries.all (fun g => c.dirPolicy.get g == .output)

/-- The numeric and code constraints. -/
def validCodes (c : Config) : Bool :=
  decide (0 < c.spiSpeedHz) && distinct c.cmdSelect.toList && decide (0 < c.adcCodeSpan) && decide (0 < c.fullScaleUv)
    && decide (c.threshCode ≤ 65535) && decide (0 < c.clkHz) && decide (0 < c.phaseResetHz)
    && distinct [c.ustepCode.c1, c.ustepCode.c2, c.ustepCode.c4, c.ustepCode.c8] && distinct c.adcMuxCode.toList
    && decide (0 < c.nmax) && decide (c.nmax ≤ 65535)
    && c.measChan.refLow.2 == 9 && c.measChan.refMid.2 == 10 && c.measChan.refHigh.2 == 11

/-- The constraints of spec/00_scope.md R7 (decisions D1, D16, D20, D26, D28, D29, D32, D37). -/
def valid (c : Config) : Bool := c.validWindows && c.validPins && c.validCodes

/-- A connector table that resolves to P0's signal lines: pin 10 is line 185, pin 36 unassigned, and pins 41 to 76 carry the 36
signal lines in the order of `SignalTable.entries`; P0 allows any such table. -/
def p0Conn : List (Option Line) :=
  let signals : List Line :=
    [32, 33, 34, 35, 36, 37, 40, 41, 42, 43, 44, 45, 48, 49, 50, 51, 52, 53, 64, 65, 66, 67, 68, 69, 70,
      96, 97, 98, 128, 129, 160, 161, 162, 163, 164, 165]
  List.flatten
    [List.replicate 9 none, [some 185], List.replicate 30 none, signals.map some, List.replicate 64 none]

/-- P0's direction table: 0 on the signal lines, 1 on lines 0 to 7, −1 elsewhere (spec/00_scope.md R8). -/
def p0Policy : List DirPolicy :=
  [(DirPolicy.input, 8), (DirPolicy.untouched, 24), (DirPolicy.output, 6), (DirPolicy.untouched, 2),
    (DirPolicy.output, 6), (DirPolicy.untouched, 2), (DirPolicy.output, 6), (DirPolicy.untouched, 10),
    (DirPolicy.output, 7), (DirPolicy.untouched, 25), (DirPolicy.output, 3), (DirPolicy.untouched, 29),
    (DirPolicy.output, 2), (DirPolicy.untouched, 30), (DirPolicy.output, 6), (DirPolicy.untouched, 26)].flatMap fun r => List.replicate r.2 r.1

/-- The test set P0 of spec/00_scope.md R8. It is used by the tests, and here to show that the constraints can be met; the
model hard-codes none of it. `CMD_SELECT[8]`, `T_SETTLE`, `STEP_TOL` and `MEAS_CHAN`, which R8 does not give, are arbitrary. -/
def p0 : Config where
  bankBase := #v[0x48310000, 0x49050000, 0x49052000, 0x49054000, 0x49056000, 0x49058000]
  offOe := 0x034
  offDin := 0x038
  offDout := 0x03C
  resetOe := #v[0xFFFFFFFF, 0xFFFFFFFF, 0xFFFFFFFF, 0xFFFFFFFF, 0xFFFFFFFF, 0xFFFFFFFF]
  resetDout := #v[0, 0, 0, 0, 0, 0]
  conn2gpio := ⟨⟨p0Conn⟩, by decide +kernel⟩
  dirPolicy := ⟨⟨p0Policy⟩, by decide +kernel⟩
  sigPin :=
    { step := #v[41, 42, 43, 44, 45, 46], dir := #v[47, 48, 49, 50, 51, 52], en := #v[53, 54, 55, 56, 57, 58],
      usbOff := #v[59, 60, 61, 62, 63, 64, 65], ms1 := 66, ms2 := 67, phaseReset := 68, adcSel1 := 69, adcSel2 := 70,
      pwrBoard := 71, pwrEncoders := 72, pwrSensors := 73, pwrDrivebank := 74, pwrHicurrent := 75, pwrSr := 76 }
  spiMode := 0
  spiSpeedHz := 1000000
  cmdInit := 0xA0000000
  cmdConfig := 0xA1000000
  cmdReadFifo := 0xE0000000
  cmdPowerDown := 0x80000000
  cmdSelect := #v[0x00000000, 0x10000000, 0x20000000, 0x30000000, 0x40000000, 0x50000000, 0x60000000, 0x70000000,
    0x90000000, 0xC0000000, 0xB0000000, 0xD0000000]
  sampleLsb := 16
  adcCodeSpan := 65536
  fullScaleUv := 5000000
  clkHz := 1000000000
  phaseResetHz := 100
  dirLevelExtend := true
  ustepCode := { c1 := 0, c2 := 1, c4 := 2, c8 := 3 }
  adcMuxCode := #v[(true, false), (false, true)]
  nmax := 65535
  tSettle := 1
  stepTol := 0
  measChan :=
    { tempOnboard := (0, 6), tempExternal := (0, 7), encoder := [(0, 0), (0, 1)], refLow := (0, 9), refMid := (0, 10),
      refHigh := (0, 11) }

end Config

/-- A parameter set with the proof that it meets the constraints of spec/00_scope.md R7. -/
structure Board where
  cfg : Config := Config.p0
  ok : cfg.valid = true := by decide +kernel
deriving Inhabited

/-- The board the machine is reset on: some parameter set that meets R7, and nothing more is known of it. DESIGN CHOICE (log 1). -/
opaque Config.board : Board

/-- The value of the clock at reset: a free value (spec/10_state.md R57: unconstrained; log 12). -/
opaque Config.freeClk : Nat

/-- A free platform answer to the n-th open, map, bus-open, ioctl, access, transfer or priority request that no script
answers (spec/10_state.md R50, R54; log 2). -/
opaque Config.freeOpenOk : Nat → Bool
@[inherit_doc Config.freeOpenOk] opaque Config.freeMapOk : Nat → Bool
@[inherit_doc Config.freeOpenOk] opaque Config.freeSpiOpenOk : Nat → Bool
@[inherit_doc Config.freeOpenOk] opaque Config.freeIoctlOk : Nat → Bool
@[inherit_doc Config.freeOpenOk] opaque Config.freeAccessOk : Nat → Bool
@[inherit_doc Config.freeOpenOk] opaque Config.freeXferOk : Nat → Bool
@[inherit_doc Config.freeOpenOk] opaque Config.freePrioGranted : Nat → Bool

/-- A free read-back value of an SPI setting (spec/93_implementation_defined.md U19). -/
opaque Config.freeReadback : Nat → Nat

/-- Free pad levels of the 192 lines, bank by bank, at a read of data-in (spec/10_state.md R51, U18). -/
opaque Config.freePads : Nat → Vector Word 6

/-- A free word from the SPI slave (spec/10_state.md R53, U12). -/
opaque Config.freeRx : Nat → Word

/-- Free numbers of ticks that pass before a clock reading (spec/10_state.md R55, U8). -/
opaque Config.freeTicks : Nat → Nat

/-- Free numbers of ticks that pass before a register access, a transfer, the end of a settle delay or a step
(spec/00_scope.md R12, spec/10_state.md R55). -/
opaque Config.freeGaps : Nat → Nat

end Sys2Proof
end

