-- ==== Sys2Proof/Syntax.lean ====
section
/-! DEFINITION. The thirty-one operations of spec/30_encoding.md R105, the command frame of R100 and its formats of R102. -/

namespace Sys2Proof

/-- A command frame: three 32-bit words presented together (spec/30_encoding.md R100). -/
structure Frame where
  w0 : Word
  w1 : Word
  w2 : Word
deriving DecidableEq, Repr

/-- The nine formats (spec/30_encoding.md R102). -/
inductive Format where
  | f0
  | fp
  | fpb
  | fa
  | fw
  | fww
  | ft
  | fs
  | fm
deriving DecidableEq, Repr

/-- The operations of the block, one constructor per row of the opcode map (spec/30_encoding.md R105). A `pin` or `gpio` is the
signed integer `int32(imm1)` (R104); a `level` or `dir` of GWRLVL and GSETDIR is the bit `b`; `Field8` operands are the
fields `a` and `b` as they stand, `Word` operands `imm1` and `imm2` (R103). -/
inductive Instr where
  | gopen
  | gmap
  | grdlvl (pin : Int)
  | gwrlvl (pin : Int) (level : Bool)
  | ggetdir (pin : Int)
  | gsetdir (pin : Int) (dir : Bool)
  | gcfgall
  | grelease
  | pconn (pin : Int)
  | pdefdir (gpio : Int)
  | pstep (i : Field8)
  | pdir (i : Field8)
  | pen (i : Field8)
  | pusboff (j : Field8)
  | scfg
  | sxfer (word : Word)
  | aencinit
  | aenccfg
  | aencsel (chan : Field8)
  | aencfifo
  | aencpd
  | adecode (word : Word)
  | araw2v (raw fsUv : Word)
  | oena (target idx : Field8)
  | odis (target idx : Field8)
  | oisena (target idx : Field8)
  | osetustep (mode : Field8)
  | ogetustep
  | ostep1 (drive dir : Field8) (freq : Word)
  | ophreset
  | omeasure (dev chan : Field8) (n settle : Word)
deriving DecidableEq, Repr

end Sys2Proof
end

