-- ==== Sys2Proof/WellFormed.lean ====
section
/-! DEFINITION. Which instructions a frame can carry: a signed index must fit the 32-bit word that carries it. -/

namespace Sys2Proof

/-- The range of `int32` (spec/00_scope.md R9, spec/30_encoding.md R104). -/
def fitsInt32 (x : Int) : Bool := decide (-2147483648 ≤ x) && decide (x ≤ 2147483647)

/-- An instruction is well-formed when its frame can carry its operands. Every other operand is well-formed by its type: an
operand an operation does not accept (R107) is still an operand. -/
def WellFormed : Instr → Bool
  | .grdlvl pin | .ggetdir pin | .pconn pin | .pdefdir pin => fitsInt32 pin
  | .gwrlvl pin _ | .gsetdir pin _ => fitsInt32 pin
  | .gopen | .gmap | .gcfgall | .grelease | .pstep _ | .pdir _ | .pen _ | .pusboff _ | .scfg | .sxfer _ | .aencinit
  | .aenccfg | .aencsel _ | .aencfifo | .aencpd | .adecode _ | .araw2v _ _ | .oena _ _ | .odis _ _ | .oisena _ _
  | .osetustep _ | .ogetustep | .ostep1 _ _ _ | .ophreset | .omeasure _ _ _ _ => true

end Sys2Proof
end

