-- ==== Sys2Proof/Decode.lean ====
section
/-! DEFINITION. The decoder of a command frame (spec/30_encoding.md R100 to R107), total on any three words and refusing by
name, and the encoder. -/

namespace Sys2Proof

/-- Why a frame is illegal (spec/30_encoding.md R106 (a), (b), (c)). -/
inductive DecodeError where
  /-- (a) `op` is none of the 31 opcodes. -/
  | unknownOpcode
  /-- (b) a field the format does not use is not zero. -/
  | unusedField
  /-- (c) `b` of format FPB is greater than 1. -/
  | bitOperand
deriving DecidableEq, Repr

namespace Frame

/-- `W0[31:24]` (spec/30_encoding.md R101). -/
def op (f : Frame) : Field8 := f.w0.extractLsb' 24 8

/-- `W0[23:16]`. -/
def a (f : Frame) : Field8 := f.w0.extractLsb' 16 8

/-- `W0[15:8]`. -/
def b (f : Frame) : Field8 := f.w0.extractLsb' 8 8

/-- `W0[7:0]`, reserved. -/
def c (f : Frame) : Field8 := f.w0.extractLsb' 0 8

/-- A frame from its fields, `c` zero (spec/30_encoding.md R101). -/
def ofFields (op a b : Field8) (w1 w2 : Word) : Frame where
  w0 := op ++ a ++ b ++ (0#8)
  w1 := w1
  w2 := w2

end Frame

namespace Format

/-- Whether a format uses field `a` (spec/30_encoding.md R102). -/
def usesA : Format → Bool
  | .fa | .ft | .fs | .fm => true
  | .f0 | .fp | .fpb | .fw | .fww => false

/-- Whether a format uses field `b`. -/
def usesB : Format → Bool
  | .fpb | .ft | .fs | .fm => true
  | .f0 | .fp | .fa | .fw | .fww => false

/-- Whether a format uses `imm1`. -/
def usesImm1 : Format → Bool
  | .fp | .fpb | .fw | .fww | .fs | .fm => true
  | .f0 | .fa | .ft => false

/-- Whether a format uses `imm2`. -/
def usesImm2 : Format → Bool
  | .fww | .fm => true
  | .f0 | .fp | .fpb | .fa | .fw | .ft | .fs => false

/-- Every field the format does not use is zero, and so is `c` (spec/30_encoding.md R101, R106 (b)). -/
def unusedZero (fmt : Format) (f : Frame) : Bool :=
  f.c == 0 && (fmt.usesA || f.a == 0) && (fmt.usesB || f.b == 0) && (fmt.usesImm1 || f.w1 == 0)
    && (fmt.usesImm2 || f.w2 == 0)

end Format

/-- `int32(w)` (spec/00_scope.md R9): the index of formats FP and FPB is `int32(imm1)` (spec/30_encoding.md R104). -/
def int32 (w : Word) : Int := w.toInt

/-- The opcode map (spec/30_encoding.md R105): the format of an opcode and the instruction the operand fields make. -/
def rowOf (op a b : Field8) (w1 w2 : Word) : Option (Format × Instr) :=
  match op.toNat with
  | 0x01 => some (.f0, .gopen)
  | 0x02 => some (.f0, .gmap)
  | 0x03 => some (.fp, .grdlvl (int32 w1))
  | 0x04 => some (.fpb, .gwrlvl (int32 w1) (b == 1))
  | 0x05 => some (.fp, .ggetdir (int32 w1))
  | 0x06 => some (.fpb, .gsetdir (int32 w1) (b == 1))
  | 0x07 => some (.f0, .gcfgall)
  | 0x08 => some (.f0, .grelease)
  | 0x10 => some (.fp, .pconn (int32 w1))
  | 0x11 => some (.fp, .pdefdir (int32 w1))
  | 0x12 => some (.fa, .pstep a)
  | 0x13 => some (.fa, .pdir a)
  | 0x14 => some (.fa, .pen a)
  | 0x15 => some (.fa, .pusboff a)
  | 0x20 => some (.f0, .scfg)
  | 0x21 => some (.fw, .sxfer w1)
  | 0x30 => some (.f0, .aencinit)
  | 0x31 => some (.f0, .aenccfg)
  | 0x32 => some (.fa, .aencsel a)
  | 0x33 => some (.f0, .aencfifo)
  | 0x34 => some (.f0, .aencpd)
  | 0x35 => some (.fw, .adecode w1)
  | 0x36 => some (.fww, .araw2v w1 w2)
  | 0x40 => some (.ft, .oena b a)
  | 0x41 => some (.ft, .odis b a)
  | 0x42 => some (.ft, .oisena b a)
  | 0x50 => some (.fa, .osetustep a)
  | 0x51 => some (.f0, .ogetustep)
  | 0x52 => some (.fs, .ostep1 a b w1)
  | 0x53 => some (.f0, .ophreset)
  | 0x60 => some (.fm, .omeasure b a w1 w2)
  | _ => none

/-- The row of the opcode map a frame selects. -/
def opcodeRow (f : Frame) : Option (Format × Instr) := rowOf f.op f.a f.b f.w1 f.w2

/-- The decoder: the instruction of a legal frame, or why the frame is illegal (spec/30_encoding.md R106). -/
def decode (f : Frame) : Except DecodeError Instr :=
  match opcodeRow f with
  | none => .error .unknownOpcode
  | some (fmt, i) =>
    if fmt.unusedZero f = false then .error .unusedField
    else if fmt = .fpb ∧ 1 < f.b.toNat then .error .bitOperand
    else .ok i

/-- The bit operand `b` of format FPB. -/
def bitField (v : Bool) : Field8 := if v then 1 else 0

/-- The frame of an instruction (spec/30_encoding.md R102, R105, R112). -/
def encode : Instr → Frame
  | .gopen => .ofFields 0x01 0 0 0 0
  | .gmap => .ofFields 0x02 0 0 0 0
  | .grdlvl pin => .ofFields 0x03 0 0 (BitVec.ofInt 32 pin) 0
  | .gwrlvl pin level => .ofFields 0x04 0 (bitField level) (BitVec.ofInt 32 pin) 0
  | .ggetdir pin => .ofFields 0x05 0 0 (BitVec.ofInt 32 pin) 0
  | .gsetdir pin dir => .ofFields 0x06 0 (bitField dir) (BitVec.ofInt 32 pin) 0
  | .gcfgall => .ofFields 0x07 0 0 0 0
  | .grelease => .ofFields 0x08 0 0 0 0
  | .pconn pin => .ofFields 0x10 0 0 (BitVec.ofInt 32 pin) 0
  | .pdefdir gpio => .ofFields 0x11 0 0 (BitVec.ofInt 32 gpio) 0
  | .pstep i => .ofFields 0x12 i 0 0 0
  | .pdir i => .ofFields 0x13 i 0 0 0
  | .pen i => .ofFields 0x14 i 0 0 0
  | .pusboff j => .ofFields 0x15 j 0 0 0
  | .scfg => .ofFields 0x20 0 0 0 0
  | .sxfer word => .ofFields 0x21 0 0 word 0
  | .aencinit => .ofFields 0x30 0 0 0 0
  | .aenccfg => .ofFields 0x31 0 0 0 0
  | .aencsel chan => .ofFields 0x32 chan 0 0 0
  | .aencfifo => .ofFields 0x33 0 0 0 0
  | .aencpd => .ofFields 0x34 0 0 0 0
  | .adecode word => .ofFields 0x35 0 0 word 0
  | .araw2v raw fsUv => .ofFields 0x36 0 0 raw fsUv
  | .oena target idx => .ofFields 0x40 idx target 0 0
  | .odis target idx => .ofFields 0x41 idx target 0 0
  | .oisena target idx => .ofFields 0x42 idx target 0 0
  | .osetustep mode => .ofFields 0x50 mode 0 0 0
  | .ogetustep => .ofFields 0x51 0 0 0 0
  | .ostep1 drive dir freq => .ofFields 0x52 drive dir freq 0
  | .ophreset => .ofFields 0x53 0 0 0 0
  | .omeasure dev chan n settle => .ofFields 0x60 chan dev n settle

/-- The frame whose 96 bits are `w`, bit 0 the least significant bit of `W0` and each later word's bits counting on. -/
def Frame.ofBits (w : Nat) : Frame where
  w0 := BitVec.ofNat 32 w
  w1 := BitVec.ofNat 32 (w >>> 32)
  w2 := BitVec.ofNat 32 (w >>> 64)

/-- The frame of an instruction whose low `nbits` bits are `w`, every bit above them zero. -/
def Frame.ofTableWord (nbits w : Nat) : Frame := .ofBits (w % 2 ^ nbits)

/-- The instruction the decoder reads from a row of spec/opcode_table.json. -/
def decodeTableWord (nbits w : Nat) : Option Instr :=
  match decode (.ofTableWord nbits w) with
  | .ok i => some i
  | .error _ => none

/-- Three words, and only three, make a frame (spec/30_encoding.md R100). -/
def decodeWords (ws : List Word) : Option (Except DecodeError Instr) :=
  match ws with
  | [w0, w1, w2] => some (decode { w0 := w0, w1 := w1, w2 := w2 })
  | _ => none

end Sys2Proof
end

