-- ==== Sys2Proof/Machine/State.lean ====
section
/-! DEFINITION. Everything the spec gives the machine (spec/10_state.md), as plain data; the environment's answers still to
be drawn (R50 to R55); the reasons a step can stop; and the state after reset (R57). -/

namespace Sys2Proof.Machine

/-- The lifecycle state of the register file (spec/10_state.md R29). -/
inductive Lifecycle where
  | closed
  | opened
  | mapped
  | released
  | halted
deriving DecidableEq, Repr

/-- The three registers of a bank (spec/10_state.md R21). -/
inductive Reg where
  | oe
  | din
  | dout
deriving DecidableEq, Repr

/-- The two registers of a bank that store and can be written (spec/10_state.md R22, R23; spec/20_memory.md R75). -/
inductive Latch where
  | oe
  | dout
deriving DecidableEq, Repr

/-- `SPI.cfg` (spec/10_state.md R35). -/
inductive SpiCfg where
  | unconfigured
  | configured
deriving DecidableEq, Repr

/-- The three bus settings (spec/10_state.md R35). -/
inductive SpiSetting where
  | mode
  | bits
  | speed
deriving DecidableEq, Repr

/-- The state of the SPI word transactor (spec/10_state.md R35, R36). -/
structure Spi where
  cfg : SpiCfg
  mode : Nat
  bits : Nat
  speed : Nat
  tx : Word
  rx : Word
deriving DecidableEq, Repr

/-- `PRIO` (spec/10_state.md R39). -/
inductive Prio where
  | normal
  | elevated
deriving DecidableEq, Repr

/-- The statistics engine (spec/10_state.md R40, R41, R44). `buf` holds the entries of `ST.buf` written so far; those of the
measurement are the first `n`. `ST.sum` and `ST.sumsq` are the exact rationals `sumNum / den` and
`sumsqNum / den` (spec/46_measurement.md R277). -/
structure Stats where
  n : Nat
  dev : AdcDev
  chan : AdcChan
  buf : List Code
  sumNum : Nat
  sumsqNum : Nat
  den : Nat
  min : Code
  max : Code
  nHi : Nat
  nLo : Nat
  used : Nat
  atHome : Bool
  measHigh : Bool
  undetermined : Bool
deriving DecidableEq, Repr

/-- The sequencer phase `seq` (spec/10_state.md R42). -/
inductive Phase where
  | idle
  | run
  | stPrio
  | stDir
  | stHigh
  | stWait1
  | stLow
  | stWait2
  | stYield
  | prLow
  | prWait
  | prHigh
  | msPrio
  | msMux
  | msInit
  | msBurn
  | msSample (i : Nat)
  | msPass1
  | msHome
  | msPass2
  | msOut
  | msYield
  | cf (g : Line)
deriving DecidableEq, Repr

/-- Which initialisation step the platform refused (spec/60_exceptions.md R301). -/
inductive InitStep where
  | openDevice
  | map (k : BankIdx)
  | spiOpen
deriving DecidableEq, Repr

/-- Which kind of configuration call failed (spec/60_exceptions.md R301). -/
inductive ConfigStep where
  | set
  | get
  | mismatch
deriving DecidableEq, Repr

/-- Where a hardware access failed (spec/60_exceptions.md R301). -/
inductive IoPlace where
  | register (addr : Word)
  | spi
deriving DecidableEq, Repr

/-- Which resource is absent (spec/60_exceptions.md R301). -/
inductive Resource where
  | gpio
  | spi
deriving DecidableEq, Repr

/-- A fault an operation raises, with the info the spec records for it (spec/60_exceptions.md R301). -/
inductive Raised where
  | fatalInit (at_ : InitStep)
  | fatalConfig (at_ : ConfigStep) (setting : SpiSetting)
  | invalidAddress (idx : Int)
  | deviceIo (place : IoPlace)
  | resourceAbsent (resource : Resource)
deriving DecidableEq, Repr

/-- The cause names of `FAULT.cause` (spec/60_exceptions.md R301); their numbers are `Cause.code`. -/
inductive Cause where
  | none
  | fatalInit
  | fatalConfig
  | invalidAddress
  | deviceIo
  | resourceAbsent
deriving DecidableEq, Repr

/-- The `FAULT` register (spec/10_state.md R45) with the model-internal info of spec/60_exceptions.md R301. -/
structure FaultReg where
  cause : Cause
  info : Option Raised
  halted : Bool
deriving DecidableEq, Repr

/-- The rejection reasons (spec/30_encoding.md R108). -/
inductive Reason where
  | illegalFrame
  | badIndex
  | badArg
  | badState
deriving DecidableEq, Repr

/-- The answer of an operation that does not halt the block (spec/30_encoding.md R108). -/
inductive Response where
  | ok (values : List Word)
  | rejected (reason : Reason)
  | deviceFault
deriving DecidableEq, Repr

/-- A write of one stored register by the external actor (spec/10_state.md R52). -/
structure ActorWrite where
  latch : Latch
  bank : BankIdx
  value : Word
deriving DecidableEq, Repr

/-- What the outside presents to the block: a command frame (spec/30_encoding.md R100) or a reset (spec/70_reset_and_hazards.md
R340). -/
inductive Input where
  | frame (f : Frame)
  | reset
deriving DecidableEq, Repr

/-- Answers of the environment still to be drawn, the next one first, and how many were drawn so far (log 2). -/
structure Script (α : Type) where
  answers : List α
  asked : Nat
deriving DecidableEq, Repr

/-- The draws of the environment (spec/10_state.md R51 to R55), one script per kind. -/
structure Env where
  openOk : Script Bool
  mapOk : Script Bool
  spiOpenOk : Script Bool
  ioctlOk : Script Bool
  readback : Script Nat
  accessOk : Script Bool
  xferOk : Script Bool
  rx : Script Word
  prioGranted : Script Bool
  pads : Script (Vector Word 6)
  ticks : Script Nat
  gaps : Script Nat
  actor : Script (List ActorWrite)
deriving DecidableEq, Repr

/-- One visible action of the block, in the terms of the traces of spec/95_test_vectors.md (log 4). -/
inductive Event where
  /-- `seq` entered a phase. -/
  | phase (p : Phase)
  /-- `MemRead(addr, 4)` returned a value. -/
  | read (addr value : Word)
  /-- `MemWrite(addr, 4, value)` was done. -/
  | write (addr value : Word)
  /-- The platform refused the access to this address. -/
  | accessFailed (addr : Word)
  /-- One transfer: the word out and the word in. -/
  | xfer (tx rx : Word)
  /-- The platform refused the transfer of this word. -/
  | xferFailed (tx : Word)
  /-- A bus setting was requested of the device. -/
  | spiSet (setting : SpiSetting) (value : Nat)
  /-- A bus setting was read back from the device. -/
  | spiGet (setting : SpiSetting) (value : Nat)
  /-- A busy-wait: the clock at its start, the deadline, and the reading that ended it. -/
  | wait (start deadline stop : Nat)
  /-- A settle delay of this duration. -/
  | settle (duration : Nat)
  /-- A priority elevation was asked for, and whether it was granted. -/
  | elevate (granted : Bool)
  /-- The processor was yielded. -/
  | yielded
  /-- The block was reset. -/
  | reset
deriving DecidableEq, Repr

/-- The machine. The block's own state, then the environment's values, then the model's own fields (INVENTORY.md, State). -/
structure State where
  cfg : Config
  sig : SignalTable Line
  lc : Lifecycle
  oe : Vector Word 6
  dout : Vector Word 6
  spi : Spi
  ustep : Option UStepMode
  prio : Prio
  prioFails : Nat
  st : Stats
  seq : Phase
  deadline : Nat
  fault : FaultReg
  clk : Nat
  env : Env
  host : List Input
  /-- What the step that led here answered: the value of that step, which the next step drops before it does anything else, so
  that no response is kept (spec/10_state.md R46, log 3). -/
  out : Option (List Word)
  trace : List Event
deriving DecidableEq, Repr

/-- Why the machine stops for good. -/
inductive Fault where
  /-- Raised by `step` in a state whose `FAULT.halted` is 1: the block accepts no frame and answers nothing until reset
  (spec/60_exceptions.md R311, spec/93_implementation_defined.md U14, treatment `stuck`). Safe: nothing runs on. -/
  | halted
deriving DecidableEq, Repr

/-- Why the machine refuses a step. -/
inductive Refusal where
  /-- Raised by an arm of `exec` whose instruction has no meaning yet. Safe: nothing is claimed of it. -/
  | notModelled (mnemonic : String)
  /-- Raised by `step` in a state whose `seq` is not IDLE: a frame offered while an operation is in flight is not accepted and
  nothing changes (spec/20_memory.md R90, spec/93_implementation_defined.md U1). Safe: nothing runs on. -/
  | busy
deriving DecidableEq, Repr

/-- The result of a part of an operation: a value, a rejection, or a raised fault, each with the state it leaves
(spec/00_scope.md R10, R11). -/
inductive Res (α : Type) where
  | done (a : α) (s : State)
  | rejected (reason : Reason) (s : State)
  | raised (f : Raised) (s : State)
deriving Repr

end Machine

/-- The n-th thing the external actor does between two operations, when no script says it: a free value (spec/10_state.md R52). -/
opaque Config.freeActor : Nat → List Machine.ActorWrite

namespace Machine

/-- A script with no answer in it: every draw is free. -/
def Script.empty {α : Type} : Script α where
  answers := []
  asked := 0

/-- The environment of which nothing is scripted. -/
def Env.free : Env where
  openOk := .empty
  mapOk := .empty
  spiOpenOk := .empty
  ioctlOk := .empty
  readback := .empty
  accessOk := .empty
  xferOk := .empty
  rx := .empty
  prioGranted := .empty
  pads := .empty
  ticks := .empty
  gaps := .empty
  actor := .empty

/-- The transactor at reset: unconfigured (spec/10_state.md R57); its settings and holding words are unspecified there.
DESIGN CHOICE: zero (log 9). -/
def Spi.reset : Spi where
  cfg := .unconfigured
  mode := 0
  bits := 0
  speed := 0
  tx := 0
  rx := 0

/-- The statistics engine at reset: unspecified (spec/10_state.md R57). DESIGN CHOICE: zero and empty (log 10). -/
def Stats.reset : Stats where
  n := 0
  dev := 0
  chan := 0
  buf := []
  sumNum := 0
  sumsqNum := 0
  den := 0
  min := 0
  max := 0
  nHi := 0
  nLo := 0
  used := 0
  atHome := false
  measHigh := false
  undetermined := false

/-- The state after reset of a board with the parameters `c` (spec/10_state.md R57, spec/70_reset_and_hazards.md R340 to R342).
`G.OE` and `G.DOUT` hold the parameters `RESET_OE` and `RESET_DOUT` (log 8). DESIGN CHOICE: `deadline` is zero (log 11). -/
def State.resetOf (c : Config) (clk : Nat) : State where
  cfg := c
  sig := c.resolve
  lc := .closed
  oe := c.resetOe
  dout := c.resetDout
  spi := .reset
  ustep := none
  prio := .normal
  prioFails := 0
  st := .reset
  seq := .idle
  deadline := 0
  fault := { cause := .none, info := none, halted := false }
  clk := clk
  env := .free
  host := []
  out := none
  trace := []

/-- The machine right after reset, on a board of which only the constraints of spec/00_scope.md R7 are known (log 1), at a free
clock value (log 12). -/
def State.reset : State := .resetOf Config.board.cfg Config.freeClk

end Sys2Proof.Machine
end

