-- ==== Sys2Proof/Machine/Operands.lean ====
section
/-! DEFINITION. Every operand form: the bank demultiplexer and the bit mask, the range checks of indices, the power targets,
the microstep codes, the step directions, the signed values of a response, and the register addresses. -/

namespace Sys2Proof.Machine

/-- Go on after a part that is done; a rejection or a raised fault ends the operation (spec/00_scope.md R10). -/
def Res.andThen {α β : Type} (r : Res α) (k : α → State → Res β) : Res β :=
  match r with
  | .done a s => k a s
  | .rejected reason s => .rejected reason s
  | .raised f s => .raised f s

/-- A Boolean as a value word. -/
def boolWord (b : Bool) : Word := if b then 1 else 0

/-- `bank(pin) = pin div 32` (spec/10_state.md R26). -/
def bankOf (g : Line) : BankIdx := ⟨g.val / 32, by omega⟩

/-- `bit(pin) = pin mod 32` (spec/10_state.md R26). -/
def bitOf (g : Line) : Nat := g.val % 32

/-- `mask(pin) = 1 << bit(pin)` (spec/10_state.md R27). -/
def maskOf (g : Line) : Word := 1#32 <<< bitOf g

/-- `OFF_r`, the byte offset of a register in its window (spec/20_memory.md R72). -/
def regOffset (c : Config) : Reg → BitVec 12
  | .oe => c.offOe
  | .din => c.offDin
  | .dout => c.offDout

/-- `addr(k, r) = BANK_BASE[k] + OFF_r` (spec/20_memory.md R72). -/
def regAddr (c : Config) (k : BankIdx) (r : Reg) : Word := c.bankBase.get k + (regOffset c r).zeroExtend 32

/-- The register of a stored register's name. -/
def Latch.toReg : Latch → Reg
  | .oe => .oe
  | .dout => .dout

/-- The eighteen registers, bank by bank (spec/10_state.md R21). -/
def allRegs : List (BankIdx × Reg) :=
  [0, 1, 2, 3, 4, 5].flatMap fun k => [(k, Reg.oe), (k, Reg.din), (k, Reg.dout)]

/-- The raw accessor's address decoder: the register at a byte address, or a refusal (`none`) for any address that is not one of
the eighteen (spec/20_memory.md R73, R78). -/
def regAt (c : Config) (addr : Word) : Option (BankIdx × Reg) :=
  allRegs.find? fun kr => regAddr c kr.1 kr.2 == addr

/-- A line number in range, from a signed index (spec/10_state.md R26). -/
def lineOfInt (idx : Int) : Option Line :=
  if h : 0 ≤ idx ∧ idx < 192 then some ⟨idx.toNat, by omega⟩ else none

/-- `ResolvePin(idx)`: an index outside 0..191 raises INVALID_ADDRESS (spec/40_gpio_register_access.md R132). -/
def resolvePin (idx : Int) (s : State) : Res Line :=
  match lineOfInt idx with
  | some g => .done g s
  | none => .raised (.invalidAddress idx) s

/-- `CheckIndex(idx, n)`: an index of `n` or more raises INVALID_ADDRESS (spec/41_pin_layout.md R164). -/
def checkIndex (idx : Field8) (n : Nat) (s : State) : Res (Fin n) :=
  if h : idx.toNat < n then .done ⟨idx.toNat, h⟩ s else .raised (.invalidAddress idx.toNat) s

/-- The policy of a line as the source's code −1, 0, 1 (spec/10_state.md R31). -/
def policyCode : DirPolicy → Int
  | .untouched => -1
  | .output => 0
  | .input => 1

/-- A number or `unassigned` as a value word (spec/30_encoding.md R110, row PCONN). -/
def lineWord : Option Line → Word
  | some g => BitVec.ofNat 32 g.val
  | none => 0xFFFFFFFF

/-- The sub-systems that can be enabled, with their codes (spec/44_power_enable.md R220). -/
inductive PowerTarget where
  | board
  | encoders
  | sensors
  | usb
  | drivebank
  | hicurrent
  | sr
  | drive
deriving DecidableEq, Repr

/-- The code of a target in field `b` (spec/44_power_enable.md R220, spec/30_encoding.md R112). -/
def targetCode : PowerTarget → Field8
  | .board => 0
  | .encoders => 1
  | .sensors => 2
  | .usb => 3
  | .drivebank => 4
  | .hicurrent => 5
  | .sr => 6
  | .drive => 7

/-- The target of a code, `none` above 7 (spec/44_power_enable.md R221). -/
def targetOf (b : Field8) : Option PowerTarget :=
  match b.toNat with
  | 0 => some .board
  | 1 => some .encoders
  | 2 => some .sensors
  | 3 => some .usb
  | 4 => some .drivebank
  | 5 => some .hicurrent
  | 6 => some .sr
  | 7 => some .drive
  | _ => none

/-- A target with no index: a non-zero index is BAD_ARG (spec/44_power_enable.md R221, spec/90_conflicts.md C15). -/
def plainTarget (line : Line) (idx : Field8) (s : State) : Res Line :=
  if idx = 0 then .done line s else .rejected .badArg s

/-- `PowerLine(t, idx)` (spec/44_power_enable.md R221). -/
def powerLine (t idx : Field8) (s : State) : Res Line :=
  match targetOf t with
  | none => .rejected .badArg s
  | some .usb => (checkIndex idx 7 s).andThen fun j s => .done (s.sig.usbOff.get j) s
  | some .drive => (checkIndex idx 6 s).andThen fun i s => .done (s.sig.en.get i) s
  | some .board => plainTarget s.sig.pwrBoard idx s
  | some .encoders => plainTarget s.sig.pwrEncoders idx s
  | some .sensors => plainTarget s.sig.pwrSensors idx s
  | some .drivebank => plainTarget s.sig.pwrDrivebank idx s
  | some .hicurrent => plainTarget s.sig.pwrHicurrent idx s
  | some .sr => plainTarget s.sig.pwrSr idx s

/-- The microstep mode of an operand, `none` unless 1, 2, 4 or 8 (spec/45_motion.md R242). -/
def modeOf (m : Field8) : Option UStepMode :=
  match m.toNat with
  | 1 => some .m1
  | 2 => some .m2
  | 4 => some .m4
  | 8 => some .m8
  | _ => none

/-- A microstep mode as the value word of OGETUSTEP (spec/30_encoding.md R110). -/
def modeWord : UStepMode → Word
  | .m1 => 1
  | .m2 => 2
  | .m4 => 4
  | .m8 => 8

/-- `USTEP_CODE[m]` (spec/45_motion.md R241). -/
def ustepCodeOf (c : UStepCode) : UStepMode → BitVec 2
  | .m1 => c.c1
  | .m2 => c.c2
  | .m4 => c.c4
  | .m8 => c.c8

/-- The mode with a given code (spec/45_motion.md R243); since the codes are a bijection the last case is mode 8 (log 25). -/
def modeOfCode (c : UStepCode) (code : BitVec 2) : UStepMode :=
  if c.c1 = code then .m1 else if c.c2 = code then .m2 else if c.c4 = code then .m4 else .m8

/-- The 2-bit code `2*b1 + b0` of the levels of MS1 and MS2 (spec/45_motion.md R243). -/
def codeOfLevels (b0 b1 : Bool) : BitVec 2 := BitVec.ofBool b1 ++ BitVec.ofBool b0

/-- A step direction (spec/45_motion.md R245). -/
inductive StepDir where
  | none
  | extend
  | retract
deriving DecidableEq, Repr

/-- The code of a step direction in field `b` (spec/30_encoding.md R112). -/
def stepDirCode : StepDir → Field8
  | .none => 0
  | .extend => 1
  | .retract => 2

/-- The step direction of a code, absent above 2 (spec/45_motion.md R245). -/
def stepDirOf (b : Field8) : Option StepDir :=
  match b.toNat with
  | 0 => some .none
  | 1 => some .extend
  | 2 => some .retract
  | _ => none

/-- The level of the direction line: `DIR_LEVEL_EXTEND`, its complement, or no access (spec/45_motion.md R245, spec/00_scope.md R7). -/
def dirLevel (c : Config) : StepDir → Option Bool
  | .none => none
  | .extend => some c.dirLevelExtend
  | .retract => some (!c.dirLevelExtend)

/-- `CheckArgs(dev, chan, N)` (spec/46_measurement.md R272). -/
def checkMeasureArgs (dev chan : Field8) (n : Word) (s : State) : Res (AdcDev × AdcChan) :=
  if n = 0 ∨ s.cfg.nmax < n.toNat then .rejected .badArg s
  else
    (checkIndex dev 2 s).andThen fun d s =>
    (checkIndex chan 12 s).andThen fun c s =>
    .done (d, c) s

/-- The two 32-bit words of a 64-bit value, high word first (spec/30_encoding.md R110). -/
def words64 (x : BitVec 64) : List Word := [x.extractLsb' 32 32, x.extractLsb' 0 32]

end Sys2Proof.Machine
end

