-- ==== Sys2Proof/Machine/Ops.lean ====
section
/-! DEFINITION. The named operations every meaning is made of: the draws of the environment, the two access primitives and the
read-modify-write, the transfer, the clock and the busy-wait, the priority, the response frame, taking a fault, and ending
an operation. -/

namespace Sys2Proof.Machine

/-- The next answer of a script, free when the script has none left (log 2). -/
def Script.head {α : Type} (free : Nat → α) (q : Script α) : α := q.answers.headD (free q.asked)

/-- The script after one draw. -/
def Script.tail {α : Type} (q : Script α) : Script α where
  answers := q.answers.tail
  asked := q.asked + 1

/-- Record one visible action (log 4). -/
def logEvent (e : Event) (s : State) : State := { s with trace := s.trace ++ [e] }

/-- `seq <- p` (spec/00_scope.md R10). -/
def enter (p : Phase) (s : State) : State := logEvent (.phase p) { s with seq := p }

/-- Time passes: the clock moves by any number of ticks (spec/00_scope.md R12, spec/10_state.md R55, log 14). -/
def elapse (s : State) : State :=
  { s with clk := s.clk + s.env.gaps.head Config.freeGaps, env := { s.env with gaps := s.env.gaps.tail } }

/-- Whether the platform will let the next register access succeed: the draw `access_ok` (spec/20_memory.md R74). -/
def accessOk (s : State) : Bool := s.env.accessOk.head Config.freeAccessOk

/-- The state after the draw `access_ok`, some time later. -/
def tookAccess (s : State) : State :=
  elapse { s with env := { s.env with accessOk := s.env.accessOk.tail } }

/-- The pad levels of a bank's 32 lines among the 192 that the outside presents now (spec/10_state.md R51, log 13). -/
def padWord (k : BankIdx) (s : State) : Word := (s.env.pads.head Config.freePads).get k

/-- The state after the pads were sampled. -/
def tookPads (s : State) : State := { s with env := { s.env with pads := s.env.pads.tail } }

/-- Data-in: an output line shows its data-out bit, an input line its pad (spec/10_state.md R25). -/
def dinValue (oe dout pads : Word) : Word := (dout &&& ~~~oe) ||| (pads &&& oe)

/-- The current value of a register (spec/20_memory.md R74). -/
def regValue (k : BankIdx) (r : Reg) (s : State) : Word :=
  match r with
  | .oe => s.oe.get k
  | .din => dinValue (s.oe.get k) (s.dout.get k) (padWord k s)
  | .dout => s.dout.get k

/-- A read of data-in samples the pads; a read of a stored register does not. -/
def sampled (r : Reg) (s : State) : State :=
  match r with
  | .din => tookPads s
  | .oe | .dout => s

/-- Store a register (spec/20_memory.md R75). -/
def setLatch (k : BankIdx) (l : Latch) (v : Word) (s : State) : State :=
  match l with
  | .oe => { s with oe := s.oe.set k.val v k.isLt }
  | .dout => { s with dout := s.dout.set k.val v k.isLt }

/-- `MemRead(addr(k, r), 4)` (spec/20_memory.md R74). -/
def memRead (k : BankIdx) (r : Reg) (s : State) : Res Word :=
  if accessOk s then
    .done (regValue k r s) (logEvent (.read (regAddr s.cfg k r) (regValue k r s)) (sampled r (tookAccess s)))
  else
    .raised (.deviceIo (.register (regAddr s.cfg k r))) (logEvent (.accessFailed (regAddr s.cfg k r)) (tookAccess s))

/-- `MemWrite(addr(k, r), 4, v)` (spec/20_memory.md R75). -/
def memWrite (k : BankIdx) (l : Latch) (v : Word) (s : State) : Res Unit :=
  if accessOk s then
    .done () (setLatch k l v (logEvent (.write (regAddr s.cfg k l.toReg) v) (tookAccess s)))
  else
    .raised (.deviceIo (.register (regAddr s.cfg k l.toReg)))
      (logEvent (.accessFailed (regAddr s.cfg k l.toReg)) (tookAccess s))

/-- One bit set or cleared, every other bit as it was (spec/40_gpio_register_access.md R136). -/
def withBit (old m : Word) (v : Bool) : Word := if v then old ||| m else old &&& ~~~m

/-- `RmwBit(k, r, m, v)`: exactly one read, then exactly one write of the same register (spec/40_gpio_register_access.md R136). -/
def rmwBit (k : BankIdx) (l : Latch) (m : Word) (v : Bool) (s : State) : Res Unit :=
  (memRead k l.toReg s).andThen fun old s => memWrite k l (withBit old m v) s

/-- `RequireMapped()` (spec/40_gpio_register_access.md R134). -/
def requireMapped (s : State) : Res Unit :=
  if s.lc = .mapped then .done () s else .raised (.resourceAbsent .gpio) s

/-- `ReadLevel(line)`: the body of GRDLVL (spec/40_gpio_register_access.md R135, R146). -/
def readLevel (g : Line) (s : State) : Res Bool :=
  (requireMapped s).andThen fun _ s =>
  (memRead (bankOf g) .din s).andThen fun v s =>
  .done (v &&& maskOf g != 0) s

/-- `WriteLevel(line, v)`: the body of GWRLVL (spec/40_gpio_register_access.md R137, R146). -/
def writeLevel (g : Line) (v : Bool) (s : State) : Res Unit :=
  (requireMapped s).andThen fun _ s => rmwBit (bankOf g) .dout (maskOf g) v s

/-- `RequireSpi()` (spec/42_spi_transactor.md R184). -/
def requireSpi (s : State) : Res Unit :=
  if s.spi.cfg = .configured then .done () s else .raised (.resourceAbsent .spi) s

/-- The draw `xfer_ok` (spec/42_spi_transactor.md R186). -/
def xferOk (s : State) : Bool := s.env.xferOk.head Config.freeXferOk

/-- The state after the draw `xfer_ok`, some time later. -/
def tookXfer (s : State) : State :=
  elapse { s with env := { s.env with xferOk := s.env.xferOk.tail } }

/-- The word the SPI slave answers next (spec/10_state.md R53). -/
def rxWord (s : State) : Word := s.env.rx.head Config.freeRx

/-- The state after the slave's word was drawn. -/
def tookRx (s : State) : State := { s with env := { s.env with rx := s.env.rx.tail } }

/-- `SPI.tx <- word`. -/
def setTx (w : Word) (s : State) : State := { s with spi := { s.spi with tx := w } }

/-- `SPI.rx <- word`. -/
def setRx (w : Word) (s : State) : State := { s with spi := { s.spi with rx := w } }

/-- `SpiXfer(w)`: the body of SXFER (spec/42_spi_transactor.md R186). -/
def spiXfer (w : Word) (s : State) : Res Word :=
  (requireSpi s).andThen fun _ s =>
  let s := setTx w s
  if xferOk s then .done (rxWord s) (logEvent (.xfer w (rxWord s)) (setRx (rxWord s) (tookRx (tookXfer s))))
  else .raised (.deviceIo .spi) (logEvent (.xferFailed w) (tookXfer s))

/-- The order in which a word's two 16-bit halves go over the wire (spec/20_memory.md R82). -/
def wireHalves (w : Word) : List (BitVec 16) := [w.extractLsb' 16 16, w.extractLsb' 0 16]

/-- The order in which a word's 32 bits go over the wire, bit 31 first (spec/20_memory.md R82). -/
def wireBits (w : Word) : List Bool := (List.range 32).map fun i => w.getMsbD i

/-- `Settle(s)`: waits `s * T_SETTLE` and changes no state of the block (spec/46_measurement.md R273, log 17). -/
def settle (count : Word) (s : State) : State := logEvent (.settle (count.toNat * s.cfg.tSettle)) (elapse s)

/-- The clock value `Now()` returns: the ticks drawn have passed (spec/10_state.md R55, spec/60_exceptions.md R322). -/
def nowValue (s : State) : Nat := s.clk + s.env.ticks.head Config.freeTicks

/-- The state after `Now()`. -/
def tookNow (s : State) : State := { s with clk := nowValue s, env := { s.env with ticks := s.env.ticks.tail } }

/-- The readings of a busy-wait: the first at or past the deadline ends it. When the scripted ticks run out the clock is at some
value at or past the deadline, by the progress assumption (spec/45_motion.md R247, spec/10_state.md R55, log 14). -/
def spin (deadline : Nat) : Nat → List Nat → Nat → Nat × Script Nat
  | clk, [], asked => (max clk deadline + Config.freeTicks asked, { answers := [], asked := asked + 1 })
  | clk, d :: ds, asked =>
    if deadline ≤ clk + d then (clk + d, { answers := ds, asked := asked + 1 }) else spin deadline (clk + d) ds (asked + 1)

/-- `BusyWait(h)` (spec/45_motion.md R247). -/
def busyWait (h : Nat) (s : State) : State :=
  let t0 := nowValue s
  let s := { tookNow s with deadline := t0 + h }
  let r := spin (t0 + h) s.clk s.env.ticks.answers s.env.ticks.asked
  logEvent (.wait t0 (t0 + h) r.1) { s with clk := r.1, env := { s.env with ticks := r.2 } }

/-- `HalfTicks(F) = ceil(CLK_HZ / (2 * F))` (spec/45_motion.md R246). -/
def halfTicks (clkHz f : Nat) : Nat := (clkHz + (2 * f - 1)) / (2 * f)

/-- The draw `prio_granted` (spec/45_motion.md R248). -/
def prioGranted (s : State) : Bool := s.env.prioGranted.head Config.freePrioGranted

/-- The state after the draw `prio_granted`. -/
def tookPrio (s : State) : State := { s with env := { s.env with prioGranted := s.env.prioGranted.tail } }

/-- `Elevate()` (spec/45_motion.md R248). -/
def elevate (s : State) : State :=
  if prioGranted s then logEvent (.elevate true) { tookPrio s with prio := .elevated }
  else logEvent (.elevate false) { tookPrio s with prioFails := s.prioFails + 1 }

/-- `Release()` (spec/45_motion.md R248). -/
def release (s : State) : State := { s with prio := .normal }

/-- `Yield()`: no effect on any state of the spec (spec/45_motion.md R248). -/
def yieldCpu (s : State) : State := logEvent .yielded s

/-- The number of a cause (spec/60_exceptions.md R301). -/
def Cause.code : Cause → Nat
  | .none => 0
  | .fatalInit => 1
  | .fatalConfig => 2
  | .invalidAddress => 3
  | .deviceIo => 4
  | .resourceAbsent => 5

/-- The cause of a raised fault (spec/60_exceptions.md R301). -/
def Raised.cause : Raised → Cause
  | .fatalInit _ => .fatalInit
  | .fatalConfig _ _ => .fatalConfig
  | .invalidAddress _ => .invalidAddress
  | .deviceIo _ => .deviceIo
  | .resourceAbsent _ => .resourceAbsent

/-- Whether a fault's outcome is HALT (true) or DEVFAULT (false) (spec/60_exceptions.md R301). -/
def Raised.halts : Raised → Bool
  | .fatalInit _ | .fatalConfig _ _ | .invalidAddress _ => true
  | .deviceIo _ | .resourceAbsent _ => false

/-- The number of a rejection reason (spec/30_encoding.md R108). -/
def Reason.code : Reason → Field8
  | .illegalFrame => 1
  | .badIndex => 2
  | .badArg => 3
  | .badState => 4

/-- The response frame: `S0`, then the value words (spec/30_encoding.md R108). -/
def Response.frame : Response → List Word
  | .ok values => ((0x00#8) ++ (0#8) ++ (0#16)) :: values
  | .rejected reason => [(0x01#8) ++ reason.code ++ (0#16)]
  | .deviceFault => [(0x02#8) ++ (0#8) ++ (0#16)]

/-- The end of an operation that does not halt the block: `seq <- IDLE`, `PRIO <- NORMAL`, and the response
(spec/40_gpio_register_access.md R130). -/
def respond (r : Response) (s : State) : State := { s with seq := .idle, prio := .normal, out := some r.frame }

/-- Taking a fault, the one operation for all of them: halt entry (spec/60_exceptions.md R311) or fault entry (R310). There is no
return operation (R312). -/
def takeFault (f : Raised) (s : State) : State :=
  if f.halts then
    { s with fault := { cause := f.cause, info := some f, halted := true }, lc := .halted, prio := .normal, out := none }
  else
    respond .deviceFault { s with fault := { s.fault with cause := f.cause, info := some f } }

/-- The state an operation ends in (spec/00_scope.md R11). -/
def complete (r : Res (List Word)) : State :=
  match r with
  | .done values s => respond (.ok values) s
  | .rejected reason s => respond (.rejected reason) s
  | .raised f s => takeFault f s

/-- Every outcome of an operation is a next state (spec/00_scope.md R11). -/
def finish (r : Res (List Word)) : Host.Outcome State Fault Refusal := .next (complete r)

/-- The response of the step before is not kept (spec/10_state.md R46, log 3). -/
def dropResponse (s : State) : State := { s with out := none }

/-- A bank of stored registers after the external actor's writes to it, in order (spec/10_state.md R52). -/
def afterWrites (l : Latch) : List ActorWrite → Vector Word 6 → Vector Word 6
  | [], r => r
  | w :: ws, r => afterWrites l ws (if w.latch = l then r.set w.bank.val w.value w.bank.isLt else r)

/-- What the external actor writes between the last response and the acceptance of the next frame. -/
def actorWrites (s : State) : List ActorWrite := s.env.actor.head Config.freeActor

/-- The external actor's turn: it may change any bit of any `G.OE[k]` or `G.DOUT[k]`, and nothing else (spec/10_state.md R52,
log 6). -/
def actorTurn (s : State) : State :=
  { s with
    oe := afterWrites .oe (actorWrites s) s.oe
    dout := afterWrites .dout (actorWrites s) s.dout
    env := { s.env with actor := s.env.actor.tail } }

/-- A reset: every piece of block-owned state takes its value of spec/10_state.md R57; `G.OE` and `G.DOUT` are not written, and
the environment goes on (spec/70_reset_and_hazards.md R340 to R342). -/
def resetBlock (s : State) : State :=
  { State.resetOf s.cfg s.clk with
    oe := s.oe, dout := s.dout, env := s.env, host := s.host, trace := s.trace ++ [.reset] }

/-- A byte of the register space by its address, little-endian, the pads sampled now; an address that belongs to none of the
eighteen registers is refused (spec/20_memory.md R73, R77, R78). -/
def readByte (addr : Word) (s : State) : Option (BitVec 8) :=
  (regAt s.cfg (addr &&& ~~~3#32)).map fun kr => (regValue kr.1 kr.2 s).extractLsb' (8 * (addr &&& 3#32).toNat) 8

/-- The source's "current direction" of a line, 1 = input (spec/10_state.md R28). -/
def lineIsInput (g : Line) (s : State) : Bool := (s.oe.get (bankOf g)).getLsbD (bitOf g)

/-- The source's "current level" of a line (spec/10_state.md R28). -/
def lineLevel (g : Line) (s : State) : Bool := (regValue (bankOf g) .din s).getLsbD (bitOf g)

/-- The level the block drives on a line's pad, `none` for an input line (spec/10_state.md R22, R23). -/
def drivenLevel (g : Line) (s : State) : Option Bool :=
  if lineIsInput g s then none else some ((s.dout.get (bankOf g)).getLsbD (bitOf g))

end Sys2Proof.Machine
end

