-- ==== Sys2Proof/Machine/AdcCodec.lean ====
section
/-! DEFINITION. The ADC codec operations, family 0x3 (spec/43_adc_codec.md): pure functions of the operands and the codec
parameters (R200). -/

namespace Sys2Proof.Machine

/-- The sample field of a received word: bits `[SAMPLE_LSB+15 : SAMPLE_LSB]` (R206). -/
def decodeSample (c : Config) (word : Word) : Code := word.extractLsb' c.sampleLsb.val 16

/-- The numerator of a voltage in volts: `x * full_scale` (R207, R209). -/
def voltNum (x fsUv : Nat) : Nat := x * fsUv

/-- The denominator of a voltage in volts: `ADC_CODE_SPAN * 1000000` (R207, R209). -/
def voltDen (c : Config) : Nat := c.adcCodeSpan * 1000000

/-- AENCINIT (R201). -/
def execAencinit (s : State) : Host.Outcome State Fault Refusal := finish (.done [s.cfg.cmdInit] (enter .run s))

/-- AENCCFG (R202). -/
def execAenccfg (s : State) : Host.Outcome State Fault Refusal := finish (.done [s.cfg.cmdConfig] (enter .run s))

/-- AENCSEL (R203): a channel above 11 raises INVALID_ADDRESS. -/
def execAencsel (chan : Field8) (s : State) : Host.Outcome State Fault Refusal :=
  finish <| (checkIndex chan 12 s).andThen fun c s => .done [s.cfg.cmdSelect.get c] (enter .run s)

/-- AENCFIFO (R204). -/
def execAencfifo (s : State) : Host.Outcome State Fault Refusal := finish (.done [s.cfg.cmdReadFifo] (enter .run s))

/-- AENCPD (R205). -/
def execAencpd (s : State) : Host.Outcome State Fault Refusal := finish (.done [s.cfg.cmdPowerDown] (enter .run s))

/-- ADECODE (R206). -/
def execAdecode (word : Word) (s : State) : Host.Outcome State Fault Refusal :=
  finish (.done [(decodeSample s.cfg word).zeroExtend 32] (enter .run s))

/-- ARAW2V (R207). -/
def execAraw2v (raw fsUv : Word) (s : State) : Host.Outcome State Fault Refusal :=
  finish <|
    if 65535 < raw.toNat then .rejected .badArg s
    else .done (words64 (roundBinary64 (voltNum raw.toNat fsUv.toNat) (voltDen s.cfg))) (enter .run s)

end Sys2Proof.Machine
end

