-- ==== Sys2Proof/Machine/Gpio.lean ====
section
/-! DEFINITION. The register access operations, family 0x0 (spec/40_gpio_register_access.md). -/

namespace Sys2Proof.Machine

/-- The draw `open_ok` (spec/10_state.md R54). -/
def openOk (s : State) : Bool := s.env.openOk.head Config.freeOpenOk

/-- The state after the draw `open_ok`. -/
def tookOpen (s : State) : State := { s with env := { s.env with openOk := s.env.openOk.tail } }

/-- GOPEN (R131). -/
def execGopen (s : State) : Host.Outcome State Fault Refusal :=
  finish <|
    if s.lc ≠ .closed then .rejected .badState s
    else
      let s := enter .run s
      if openOk s then .done [] { tookOpen s with lc := .opened }
      else .raised (.fatalInit .openDevice) (tookOpen s)

/-- The draw `map_ok` for one bank (spec/10_state.md R54). -/
def mapOk (s : State) : Bool := s.env.mapOk.head Config.freeMapOk

/-- The state after one draw `map_ok`. -/
def tookMap (s : State) : State := { s with env := { s.env with mapOk := s.env.mapOk.tail } }

/-- The mapping of the banks in order; the first failure is fatal (R133). -/
def mapBanks : List BankIdx → State → Res Unit
  | [], s => .done () s
  | k :: ks, s => if mapOk s then mapBanks ks (tookMap s) else .raised (.fatalInit (.map k)) (tookMap s)

/-- GMAP (R133). -/
def execGmap (s : State) : Host.Outcome State Fault Refusal :=
  finish <|
    if s.lc ≠ .opened then .rejected .badState s
    else (mapBanks [0, 1, 2, 3, 4, 5] (enter .run s)).andThen fun _ s => .done [] { s with lc := .mapped }

/-- GRDLVL (R135). -/
def execGrdlvl (pin : Int) (s : State) : Host.Outcome State Fault Refusal :=
  finish <|
    (resolvePin pin s).andThen fun g s =>
    (readLevel g (enter .run s)).andThen fun v s =>
    .done [boolWord v] s

/-- GWRLVL (R137). -/
def execGwrlvl (pin : Int) (level : Bool) (s : State) : Host.Outcome State Fault Refusal :=
  finish <|
    (resolvePin pin s).andThen fun g s =>
    (writeLevel g level (enter .run s)).andThen fun _ s =>
    .done [] s

/-- GGETDIR (R139): 1 means input, 0 output. -/
def execGgetdir (pin : Int) (s : State) : Host.Outcome State Fault Refusal :=
  finish <|
    (resolvePin pin s).andThen fun g s =>
    (requireMapped (enter .run s)).andThen fun _ s =>
    (memRead (bankOf g) .oe s).andThen fun v s =>
    .done [boolWord (v &&& maskOf g != 0)] s

/-- GSETDIR (R141): 0 = output, 1 = input. -/
def execGsetdir (pin : Int) (dir : Bool) (s : State) : Host.Outcome State Fault Refusal :=
  finish <|
    (resolvePin pin s).andThen fun g s =>
    (requireMapped (enter .run s)).andThen fun _ s =>
    (rmwBit (bankOf g) .oe (maskOf g) dir s).andThen fun _ s =>
    .done [] s

/-- One line of GCFGALL: no access at all when its policy is −1 (R143). -/
def configLine (g : Line) (s : State) : Res Unit :=
  match s.cfg.dirPolicy.get g with
  | .untouched => .done () s
  | .output => rmwBit (bankOf g) .oe (maskOf g) false s
  | .input => rmwBit (bankOf g) .oe (maskOf g) true s

/-- GCFGALL over some lines in order, `seq` at CF(g) for each (R143). -/
def configLines : List Line → State → Res Unit
  | [], s => .done () s
  | g :: gs, s => (configLine g (enter (.cf g) s)).andThen fun _ s => configLines gs s

/-- GCFGALL (R143): the 192 lines in ascending order. -/
def execGcfgall (s : State) : Host.Outcome State Fault Refusal :=
  finish <|
    (requireMapped s).andThen fun _ s =>
    (configLines (List.finRange 192) s).andThen fun _ s =>
    .done [] s

/-- GRELEASE (R145). -/
def execGrelease (s : State) : Host.Outcome State Fault Refusal :=
  finish <|
    if s.lc ≠ .mapped then .rejected .badState s
    else .done [] { enter .run s with lc := .released }

end Sys2Proof.Machine
end

