-- ==== Sys2Proof/Machine/Flags.lean ====
section
/-! DEFINITION. The statistics engine's computations and its three flags (spec/46_measurement.md R274 to R278). -/

namespace Sys2Proof.Machine

/-- The sum of the sample codes. -/
def sumCodes : List Code → Nat
  | [] => 0
  | x :: xs => x.toNat + sumCodes xs

/-- The sum of the squares of the sample codes. -/
def sumSqCodes : List Code → Nat
  | [] => 0
  | x :: xs => x.toNat * x.toNat + sumSqCodes xs

/-- The least sample code; 65535 for no samples. -/
def minCode : List Code → Code
  | [] => 65535
  | x :: xs => if x.toNat ≤ (minCode xs).toNat then x else minCode xs

/-- The greatest sample code; 0 for no samples. -/
def maxCode : List Code → Code
  | [] => 0
  | x :: xs => if (maxCode xs).toNat ≤ x.toNat then x else maxCode xs

/-- The samples on one side of the threshold: above it, or at or below it. -/
def sideOf (thresh : Nat) (above : Bool) (buf : List Code) : List Code :=
  buf.filter fun x => decide (thresh < x.toNat) == above

/-- The samples of the current measurement: `ST.buf[0..N-1]` (spec/10_state.md R40). -/
def samples (st : Stats) : List Code := st.buf.take st.n

/-- `FirstPass()` (spec/46_measurement.md R274). -/
def firstPass (st : Stats) : Stats :=
  { st with
    sumNum := sumCodes (samples st)
    sumsqNum := sumSqCodes (samples st)
    min := minCode (samples st)
    max := maxCode (samples st)
    used := st.n
    den := 1
    atHome := false
    measHigh := false
    undetermined := false }

/-- The comparison of `HomeTest()`: a spread strictly above 1.0 V, in exact integers (spec/46_measurement.md R275). -/
def atHomeTest (c : Config) (min max : Code) : Bool :=
  decide (homeSpreadUv * c.adcCodeSpan < (max.toNat - min.toNat) * c.fullScaleUv)

/-- `HomeTest()` (spec/46_measurement.md R275). -/
def homeTest (c : Config) (st : Stats) : Stats := { st with atHome := atHomeTest c st.min st.max }

/-- `Vote()` (spec/46_measurement.md R276). -/
def vote (c : Config) (st : Stats) : Stats :=
  let hi := (sideOf c.threshCode true (samples st)).length
  let lo := (sideOf c.threshCode false (samples st)).length
  { st with nHi := hi, nLo := lo, measHigh := decide (lo < hi) }

/-- `Guard()`, the guarded division (spec/46_measurement.md R278, spec/90_conflicts.md C6). -/
def guardDivision (st : Stats) : Stats := { st with undetermined := true, atHome := false }

/-- `Refilter()` (spec/46_measurement.md R277): the sums over the majority side times N, over the common denominator k. -/
def refilter (c : Config) (st : Stats) : Stats :=
  let side := sideOf c.threshCode st.measHigh (samples st)
  if side.length = 0 then guardDivision st
  else
    { st with
      min := minCode side
      max := maxCode side
      sumNum := sumCodes side * st.n
      sumsqNum := sumSqCodes side * st.n
      used := side.length
      den := side.length }

/-- The flags word of the response (spec/46_measurement.md R279, spec/30_encoding.md R110). -/
def flagsWord (st : Stats) : Word :=
  boolWord st.atHome ||| (boolWord st.measHigh <<< 1) ||| (boolWord st.undetermined <<< 2)

end Sys2Proof.Machine
end

