-- ==== Sys2Proof/Machine/Measure.lean ====
section
/-! DEFINITION. The statistical ADC acquisition, family 0x6 (spec/46_measurement.md). -/

namespace Sys2Proof.Machine

/-- The statistics engine takes up a measurement: N, the device and the channel (spec/10_state.md R40). The sample buffer is not
written yet (spec/20_memory.md R83). -/
def beginMeasure (dev : AdcDev) (chan : AdcChan) (n : Nat) (s : State) : State :=
  { s with st := { s.st with n := n, dev := dev, chan := chan } }

/-- `SelectDevice(dev)`: SEL1 before SEL2 (R273). -/
def selectDevice (dev : AdcDev) (s : State) : Res Unit :=
  (writeLevel s.sig.adcSel1 (s.cfg.adcMuxCode.get dev).1 s).andThen fun _ s =>
  writeLevel s.sig.adcSel2 (s.cfg.adcMuxCode.get dev).2 s

/-- `ST.buf[i] <- x`: entry i and no other (R271, spec/20_memory.md R83). A run writes the entries in ascending order, so entry i is
one of the buffer or the next after it. -/
def storeSample (i : Nat) (x : Code) (s : State) : State :=
  { s with st := { s.st with buf := s.st.buf.take i ++ x :: s.st.buf.drop (i + 1) } }

/-- The capture of `m` further samples, the first of them sample `i` (R271). -/
def captureSamples (chan : AdcChan) (settleCount : Word) : Nat → Nat → State → Res Unit
  | 0, _, s => .done () s
  | m + 1, i, s =>
    (spiXfer (s.cfg.cmdSelect.get chan) (enter (.msSample i) s)).andThen fun r s =>
    captureSamples chan settleCount m (i + 1) (storeSample i (decodeSample s.cfg r) (settle settleCount s))

/-- Change the statistics engine. -/
def updateStats (f : Stats → Stats) (s : State) : State := { s with st := f s.st }

/-- The second pass, only when at home (R271, R276, R277). -/
def secondPass (s : State) : State :=
  if s.st.atHome then updateStats (fun st => refilter s.cfg (vote s.cfg st)) (enter .msPass2 s) else s

/-- The mean voltage (R279): `Volt((sumNum / den) / N)`, rounded once. -/
def meanVolt (c : Config) (st : Stats) : BitVec 64 :=
  roundBinary64 (voltNum st.sumNum c.fullScaleUv) (st.den * st.n * voltDen c)

/-- The numerator of the variance in codes, over the denominator `(den * N)^2` (R279). -/
def varNum (st : Stats) : Nat := st.sumsqNum * (st.den * st.n) - st.sumNum * st.sumNum

/-- The standard deviation in volts (R279): the square root of an exact rational, rounded once. -/
def stdVolt (c : Config) (st : Stats) : BitVec 64 :=
  roundSqrtBinary64 (varNum st * (c.fullScaleUv * c.fullScaleUv))
    (st.den * st.n * voltDen c * (st.den * st.n * voltDen c))

/-- The voltage of a sample code at the orchestrator's full scale (R209, R279). -/
def codeVolt (c : Config) (x : Code) : BitVec 64 := roundBinary64 (voltNum x.toNat c.fullScaleUv) (voltDen c)

/-- The eighteen value words of the response (R271, R279, spec/30_encoding.md R110). -/
def measureWords (c : Config) (st : Stats) : List Word :=
  [flagsWord st, BitVec.ofNat 32 st.n, BitVec.ofNat 32 st.used, st.min.zeroExtend 32, st.max.zeroExtend 32,
    BitVec.ofNat 32 st.den]
    ++ words64 (BitVec.ofNat 64 st.sumNum) ++ words64 (BitVec.ofNat 64 st.sumsqNum) ++ words64 (meanVolt c st)
    ++ words64 (stdVolt c st) ++ words64 (codeVolt c st.min) ++ words64 (codeVolt c st.max)

/-- The part of OMEASURE that talks to the devices, up to the last sample (R271, R273). -/
def acquire (dev : AdcDev) (chan : AdcChan) (n : Nat) (settleCount : Word) (s : State) : Res Unit :=
  let s := elevate (enter .msPrio (beginMeasure dev chan n s))
  (selectDevice dev (enter .msMux s)).andThen fun _ s =>
  (spiXfer s.cfg.cmdInit (enter .msInit s)).andThen fun _ s =>
  (spiXfer s.cfg.cmdConfig s).andThen fun _ s =>
  (spiXfer (s.cfg.cmdSelect.get chan) (enter .msBurn s)).andThen fun _ s =>
  captureSamples chan settleCount n 0 (settle settleCount s)

/-- The part of OMEASURE that computes, from the first pass to the end (R271, R274 to R279). -/
def analyse (s : State) : Res (List Word) :=
  let s := updateStats firstPass (enter .msPass1 s)
  let s := updateStats (homeTest s.cfg) (enter .msHome s)
  let s := enter .msOut (secondPass s)
  .done (measureWords s.cfg s.st) (yieldCpu (release (enter .msYield s)))

/-- OMEASURE (R271). -/
def execOmeasure (dev chan : Field8) (n settleCount : Word) (s : State) : Host.Outcome State Fault Refusal :=
  finish <|
    (checkMeasureArgs dev chan n s).andThen fun dc s =>
    (acquire dc.1 dc.2 n.toNat settleCount s).andThen fun _ s =>
    analyse s

end Sys2Proof.Machine
end

