-- ==== Sys2Proof/Machine/Motion.lean ====
section
/-! DEFINITION. The motion operations, family 0x5 (spec/45_motion.md): the shared microstep mode, the single step pulse and the
phase reset. -/

namespace Sys2Proof.Machine

/-- OSETUSTEP (R242): MS1 before MS2, the shadow unknown while the lines change. -/
def execOsetustep (mode : Field8) (s : State) : Host.Outcome State Fault Refusal :=
  finish <|
    match modeOf mode with
    | none => .rejected .badArg s
    | some m =>
      let code := ustepCodeOf s.cfg.ustepCode m
      let s := { enter .run s with ustep := none }
      (writeLevel s.sig.ms1 (code.getLsbD 0) s).andThen fun _ s =>
      (writeLevel s.sig.ms2 (code.getLsbD 1) s).andThen fun _ s =>
      .done [] { s with ustep := some m }

/-- OGETUSTEP (R243): derived from both lines, never from the shadow. -/
def execOgetustep (s : State) : Host.Outcome State Fault Refusal :=
  finish <|
    (readLevel s.sig.ms1 (enter .run s)).andThen fun b0 s =>
    (readLevel s.sig.ms2 s).andThen fun b1 s =>
    let m := modeOfCode s.cfg.ustepCode (codeOfLevels b0 b1)
    .done [modeWord m] { s with ustep := some m }

/-- The write of the direction line, or no access for NONE (R245). -/
def writeDirection (d : Drive) (dir : StepDir) (s : State) : Res Unit :=
  match dirLevel s.cfg dir with
  | none => .done () s
  | some v => writeLevel (s.sig.dir.get d) v s

/-- The seven steps of the stepping protocol (R245). -/
def stepPulse (d : Drive) (dir : StepDir) (freq : Nat) (s : State) : Res (List Word) :=
  let s := elevate (enter .stPrio s)
  (writeDirection d dir (enter .stDir s)).andThen fun _ s =>
  (writeLevel (s.sig.step.get d) true (enter .stHigh s)).andThen fun _ s =>
  let s := busyWait (halfTicks s.cfg.clkHz freq) (enter .stWait1 s)
  (writeLevel (s.sig.step.get d) false (enter .stLow s)).andThen fun _ s =>
  let s := busyWait (halfTicks s.cfg.clkHz freq) (enter .stWait2 s)
  .done [] (yieldCpu (release (enter .stYield s)))

/-- OSTEP1 (R245). -/
def execOstep1 (drive dir : Field8) (freq : Word) (s : State) : Host.Outcome State Fault Refusal :=
  finish <|
    match stepDirOf dir with
    | none => .rejected .badArg s
    | some sd =>
      if freq = 0 then .rejected .badArg s
      else (checkIndex drive 6 s).andThen fun d s => stepPulse d sd freq.toNat s

/-- OPHRESET (R250). -/
def execOphreset (s : State) : Host.Outcome State Fault Refusal :=
  finish <|
    (writeLevel s.sig.phaseReset false (enter .prLow s)).andThen fun _ s =>
    let s := busyWait (halfTicks s.cfg.clkHz s.cfg.phaseResetHz) (enter .prWait s)
    (writeLevel s.sig.phaseReset true (enter .prHigh s)).andThen fun _ s =>
    .done [] s

end Sys2Proof.Machine
end

