-- ==== Sys2Proof/Machine/PinLayout.lean ====
section
/-! DEFINITION. The pin layout table operations, family 0x1 (spec/41_pin_layout.md): pure lookups and accessors (R160). -/

namespace Sys2Proof.Machine

/-- `connector_pin_to_gpio`: total, out of range is unassigned (R161). -/
def connectorPinToGpio (c : Config) (pin : Int) : Option Line :=
  if pin < 1 ∨ 140 < pin then none else c.connLine pin.toNat

/-- PCONN (R161). -/
def execPconn (pin : Int) (s : State) : Host.Outcome State Fault Refusal :=
  finish (.done [lineWord (connectorPinToGpio s.cfg pin)] (enter .run s))

/-- `default_direction`: total, out of range is Untouched (R163). -/
def defaultDirection (c : Config) (gpio : Int) : DirPolicy :=
  match lineOfInt gpio with
  | some g => c.dirPolicy.get g
  | none => .untouched

/-- PDEFDIR (R163): the policy as `sext_32`. -/
def execPdefdir (gpio : Int) (s : State) : Host.Outcome State Fault Refusal :=
  finish (.done [BitVec.ofInt 32 (policyCode (defaultDirection s.cfg gpio))] (enter .run s))

/-- PSTEP (R165). -/
def execPstep (i : Field8) (s : State) : Host.Outcome State Fault Refusal :=
  finish <| (checkIndex i 6 s).andThen fun d s => .done [lineWord (some (s.sig.step.get d))] (enter .run s)

/-- PDIR (R166). -/
def execPdir (i : Field8) (s : State) : Host.Outcome State Fault Refusal :=
  finish <| (checkIndex i 6 s).andThen fun d s => .done [lineWord (some (s.sig.dir.get d))] (enter .run s)

/-- PEN (R167). -/
def execPen (i : Field8) (s : State) : Host.Outcome State Fault Refusal :=
  finish <| (checkIndex i 6 s).andThen fun d s => .done [lineWord (some (s.sig.en.get d))] (enter .run s)

/-- PUSBOFF (R168). -/
def execPusboff (j : Field8) (s : State) : Host.Outcome State Fault Refusal :=
  finish <| (checkIndex j 7 s).andThen fun u s => .done [lineWord (some (s.sig.usbOff.get u))] (enter .run s)

end Sys2Proof.Machine
end

