-- ==== Sys2Proof/Machine/Power.lean ====
section
/-! DEFINITION. The power and enable operations, family 0x4 (spec/44_power_enable.md): one active-low line each (R222, R227). -/

namespace Sys2Proof.Machine

/-- OENA (R223): the line to level 0. -/
def execOena (target idx : Field8) (s : State) : Host.Outcome State Fault Refusal :=
  finish <|
    (powerLine target idx s).andThen fun g s =>
    (writeLevel g false (enter .run s)).andThen fun _ s =>
    .done [] s

/-- ODIS (R224): the line to level 1. -/
def execOdis (target idx : Field8) (s : State) : Host.Outcome State Fault Refusal :=
  finish <|
    (powerLine target idx s).andThen fun g s =>
    (writeLevel g true (enter .run s)).andThen fun _ s =>
    .done [] s

/-- OISENA (R225): the inverse of the line's current level. -/
def execOisena (target idx : Field8) (s : State) : Host.Outcome State Fault Refusal :=
  finish <|
    (powerLine target idx s).andThen fun g s =>
    (readLevel g (enter .run s)).andThen fun v s =>
    .done [boolWord (!v)] s

end Sys2Proof.Machine
end

