-- ==== Sys2Proof/Machine/SpiBus.lean ====
section
/-! DEFINITION. The SPI word transactor operations, family 0x2 (spec/42_spi_transactor.md). -/

namespace Sys2Proof.Machine

/-- The draw `spi_open_ok` (spec/10_state.md R54). -/
def spiOpenOk (s : State) : Bool := s.env.spiOpenOk.head Config.freeSpiOpenOk

/-- The state after the draw `spi_open_ok`. -/
def tookSpiOpen (s : State) : State := { s with env := { s.env with spiOpenOk := s.env.spiOpenOk.tail } }

/-- The draw `ioctl_ok` for one configuration call (spec/10_state.md R54). -/
def ioctlOk (s : State) : Bool := s.env.ioctlOk.head Config.freeIoctlOk

/-- The state after one draw `ioctl_ok`. -/
def tookIoctl (s : State) : State := { s with env := { s.env with ioctlOk := s.env.ioctlOk.tail } }

/-- The value read back for a setting: the draw `rb` (spec/10_state.md R54). -/
def readback (s : State) : Nat := s.env.readback.head Config.freeReadback

/-- The state after one draw `rb`. -/
def tookReadback (s : State) : State := { s with env := { s.env with readback := s.env.readback.tail } }

/-- `requested(s)` (R182). -/
def requested (c : Config) : SpiSetting → Nat
  | .mode => c.spiMode.val
  | .bits => spiWordBits
  | .speed => c.spiSpeedHz

/-- One set call (R182). -/
def setSetting (x : SpiSetting) (s : State) : Res Unit :=
  if ioctlOk s then .done () (logEvent (.spiSet x (requested s.cfg x)) (tookIoctl s))
  else .raised (.fatalConfig .set x) (tookIoctl s)

/-- One read-back call; a value that differs from the requested one is fatal (R182, spec/91_not_in_source.md N26). -/
def getSetting (x : SpiSetting) (s : State) : Res Unit :=
  let s' := tookReadback (tookIoctl s)
  if ioctlOk s = false then .raised (.fatalConfig .get x) s'
  else if readback s ≠ requested s.cfg x then .raised (.fatalConfig .mismatch x) (logEvent (.spiGet x (readback s)) s')
  else .done () (logEvent (.spiGet x (readback s)) s')

/-- The calls for some settings in order; the first failure ends them. -/
def eachSetting (call : SpiSetting → State → Res Unit) : List SpiSetting → State → Res Unit
  | [], s => .done () s
  | x :: xs, s => (call x s).andThen fun _ s => eachSetting call xs s

/-- SCFG (R182). -/
def execScfg (s : State) : Host.Outcome State Fault Refusal :=
  finish <|
    if s.spi.cfg = .configured then .rejected .badState s
    else
      let s := enter .run s
      if spiOpenOk s then
        (eachSetting setSetting [.mode, .bits, .speed] (tookSpiOpen s)).andThen fun _ s =>
        (eachSetting getSetting [.mode, .bits, .speed] s).andThen fun _ s =>
        .done []
          { s with
            spi :=
              { s.spi with cfg := .configured, mode := requested s.cfg .mode, bits := requested s.cfg .bits, speed := requested s.cfg .speed } }
      else .raised (.fatalInit .spiOpen) (tookSpiOpen s)

/-- SXFER (R186). -/
def execSxfer (word : Word) (s : State) : Host.Outcome State Fault Refusal :=
  finish <| (spiXfer word (enter .run s)).andThen fun rx s => .done [rx] s

end Sys2Proof.Machine
end

