-- ==== Sys2Proof/Machine/Dispatch.lean ====
section
/-! DEFINITION. One arm per operation of the opcode map (spec/30_encoding.md R105): each calls its meaning. -/

namespace Sys2Proof.Machine

/-- The meaning of an accepted, decoded operation (spec/40_gpio_register_access.md R130, points 4 and 5). -/
def exec (i : Instr) (s : State) : Host.Outcome State Fault Refusal :=
  match i with
  | .gopen => Sys2Proof.Machine.execGopen s
  | .gmap => Sys2Proof.Machine.execGmap s
  | .grdlvl pin => Sys2Proof.Machine.execGrdlvl pin s
  | .gwrlvl pin level => Sys2Proof.Machine.execGwrlvl pin level s
  | .ggetdir pin => Sys2Proof.Machine.execGgetdir pin s
  | .gsetdir pin dir => Sys2Proof.Machine.execGsetdir pin dir s
  | .gcfgall => Sys2Proof.Machine.execGcfgall s
  | .grelease => Sys2Proof.Machine.execGrelease s
  | .pconn pin => Sys2Proof.Machine.execPconn pin s
  | .pdefdir gpio => Sys2Proof.Machine.execPdefdir gpio s
  | .pstep d => Sys2Proof.Machine.execPstep d s
  | .pdir d => Sys2Proof.Machine.execPdir d s
  | .pen d => Sys2Proof.Machine.execPen d s
  | .pusboff j => Sys2Proof.Machine.execPusboff j s
  | .scfg => Sys2Proof.Machine.execScfg s
  | .sxfer word => Sys2Proof.Machine.execSxfer word s
  | .aencinit => Sys2Proof.Machine.execAencinit s
  | .aenccfg => Sys2Proof.Machine.execAenccfg s
  | .aencsel chan => Sys2Proof.Machine.execAencsel chan s
  | .aencfifo => Sys2Proof.Machine.execAencfifo s
  | .aencpd => Sys2Proof.Machine.execAencpd s
  | .adecode word => Sys2Proof.Machine.execAdecode word s
  | .araw2v raw fsUv => Sys2Proof.Machine.execAraw2v raw fsUv s
  | .oena target idx => Sys2Proof.Machine.execOena target idx s
  | .odis target idx => Sys2Proof.Machine.execOdis target idx s
  | .oisena target idx => Sys2Proof.Machine.execOisena target idx s
  | .osetustep mode => Sys2Proof.Machine.execOsetustep mode s
  | .ogetustep => Sys2Proof.Machine.execOgetustep s
  | .ostep1 drive dir freq => Sys2Proof.Machine.execOstep1 drive dir freq s
  | .ophreset => Sys2Proof.Machine.execOphreset s
  | .omeasure dev chan n settle => Sys2Proof.Machine.execOmeasure dev chan n settle s

end Sys2Proof.Machine
end

