-- ==== Sys2Proof/Machine/Step.lean ====
section
/-! DEFINITION. One step: the prologue of every operation (spec/40_gpio_register_access.md R130), then the operation. -/

namespace Sys2Proof.Machine

/-- What the block does with an accepted frame: an illegal frame is rejected, a legal one runs (spec/30_encoding.md R106,
spec/40_gpio_register_access.md R130, points 3 to 5). -/
def runFrame (f : Frame) (s : State) : Host.Outcome State Fault Refusal :=
  match decode f with
  | .error _ => .next (respond (.rejected .illegalFrame) s)
  | .ok i => exec i s

/-- One step. A reset takes effect in any state (spec/70_reset_and_hazards.md R340). A halted block accepts nothing
(R130 (1), U14). A busy block refuses the frame (R130 (2), U1). An idle block with nothing presented waits
(spec/70_reset_and_hazards.md R341). Otherwise the external actor has its turn and the frame is taken whole
(spec/20_memory.md R91, spec/10_state.md R52). Whatever the step before answered is dropped first (R46), and time passes before
every step (R55, log 14). -/
def step (s : State) : Host.Outcome State Fault Refusal :=
  match s.host with
  | .reset :: rest => .next (resetBlock (elapse { s with host := rest }))
  | [] => if s.fault.halted then .fault .halted else if s.seq = .idle then .next (elapse (dropResponse s)) else .refused .busy
  | .frame f :: rest =>
    if s.fault.halted then .fault .halted
    else if s.seq = .idle then runFrame f (actorTurn (elapse (dropResponse { s with host := rest })))
    else .refused .busy

/-- The state with one more frame presented, to be taken by the next step: the low `nbits` bits of the frame are `w`, every bit
above them is zero. -/
def State.withFetchWord (s : State) (nbits w : Nat) : State :=
  { s with host := .frame (.ofTableWord nbits w) :: s.host }

end Sys2Proof.Machine
end

