-- ==== Sys2Proof/Machine/Boundary.lean ====
section
/-! DEFINITION. The host side of the command port: the boundary pseudo-operations, their one-based indices and their expansion
into frames (spec/30_encoding.md R118 to R124), and the reference ADC slave of spec/10_state.md R53. -/

namespace Sys2Proof.Machine

/-- The targets without an index, which pass through the boundary unchanged (spec/30_encoding.md R121). -/
inductive PlainTarget where
  | board
  | encoders
  | sensors
  | drivebank
  | hicurrent
  | sr
deriving DecidableEq, Repr

/-- A one-based USB port or ALL (spec/30_encoding.md R120). -/
inductive UsbSel where
  | port (usb1 : Int)
  | all
deriving DecidableEq, Repr

/-- A named quantity (spec/30_encoding.md R123). -/
inductive Quantity where
  | tempOnboard
  | tempExternal
  | encoder (i : Nat)
  | refLow
  | refMid
  | refHigh
deriving DecidableEq, Repr

/-- The boundary pseudo-operations (spec/30_encoding.md R119 to R123). -/
inductive Pseudo where
  | step (drive1 count : Int) (freq : Word)
  | usbEna (p : UsbSel)
  | usbDis (p : UsbSel)
  | usbQ (usb1 : Int)
  | drvEna (drive1 : Int)
  | drvDis (drive1 : Int)
  | drvQ (drive1 : Int)
  | ena (t : PlainTarget)
  | dis (t : PlainTarget)
  | q (t : PlainTarget)
  | setUstep (m : Field8)
  | getUstep
  | resetPhase
  | meas (dev1 ch : Int) (n settle : Word)
  | measNamed (quantity : Quantity) (n settle : Word)
deriving DecidableEq, Repr

/-- The power target of a plain target (spec/30_encoding.md R121). -/
def PlainTarget.target : PlainTarget → PowerTarget
  | .board => .board
  | .encoders => .encoders
  | .sensors => .sensors
  | .drivebank => .drivebank
  | .hicurrent => .hicurrent
  | .sr => .sr

/-- The internal index of a one-based operand in `1..n`; outside it the whole pseudo-operation is REJECTED(BAD_INDEX)
(spec/30_encoding.md R118). -/
def zeroBased (x : Int) (n : Nat) : Except Reason Field8 :=
  if 1 ≤ x ∧ x ≤ n then .ok (BitVec.ofInt 8 (x - 1)) else .error .badIndex

/-- The frames of a USB pseudo-operation, ALL in ascending order (spec/30_encoding.md R120). -/
def expandUsb (op : Field8 → Field8 → Instr) : UsbSel → Except Reason (List Instr)
  | .port usb1 => (zeroBased usb1 7).map fun j => [op (targetCode .usb) j]
  | .all => .ok ([0, 1, 2, 3, 4, 5, 6].map fun j => op (targetCode .usb) j)

/-- The frames of a per-drive pseudo-operation (spec/30_encoding.md R121). -/
def expandDrive (op : Field8 → Field8 → Instr) (drive1 : Int) : Except Reason (List Instr) :=
  (zeroBased drive1 6).map fun d => [op (targetCode .drive) d]

/-- The (device, channel) pair of a named quantity (spec/30_encoding.md R123). -/
def measChanOf (m : MeasChan) : Quantity → Option (AdcDev × AdcChan)
  | .tempOnboard => some m.tempOnboard
  | .tempExternal => some m.tempExternal
  | .encoder i => m.encoder[i]?
  | .refLow => some m.refLow
  | .refMid => some m.refMid
  | .refHigh => some m.refHigh

/-- The frames a pseudo-operation issues, in order, or the reason it is rejected with no frame issued (spec/30_encoding.md R118 to
R123, spec/60_exceptions.md R308). That a channel outside 0..11 and an encoder without an entry are BAD_INDEX too is log 26. -/
def expand (c : Config) : Pseudo → Except Reason (List Instr)
  | .step drive1 count freq =>
    (zeroBased drive1 6).map fun d =>
      List.replicate count.natAbs (.ostep1 d (stepDirCode (if 0 < count then .extend else .retract)) freq)
  | .usbEna p => expandUsb .oena p
  | .usbDis p => expandUsb .odis p
  | .usbQ usb1 => expandUsb .oisena (.port usb1)
  | .drvEna drive1 => expandDrive .oena drive1
  | .drvDis drive1 => expandDrive .odis drive1
  | .drvQ drive1 => expandDrive .oisena drive1
  | .ena t => .ok [.oena (targetCode t.target) 0]
  | .dis t => .ok [.odis (targetCode t.target) 0]
  | .q t => .ok [.oisena (targetCode t.target) 0]
  | .setUstep m => .ok [.osetustep m]
  | .getUstep => .ok [.ogetustep]
  | .resetPhase => .ok [.ophreset]
  | .meas dev1 ch n settle =>
    (zeroBased dev1 2).bind fun d =>
      if ch < 0 ∨ 11 < ch then .error .badIndex
      else if ch = 0 then .ok ([0, 1, 2, 3, 4, 5, 6, 7].map fun k => .omeasure d k n settle)
      else .ok [.omeasure d (BitVec.ofInt 8 ch) n settle]
  | .measNamed quantity n settle =>
    match measChanOf c.measChan quantity with
    | none => .error .badIndex
    | some dc => .ok [.omeasure (BitVec.ofNat 8 dc.1.val) (BitVec.ofNat 8 dc.2.val) n settle]

/-- What the boundary reports to its caller: the result, rejected, or the generic device fault (spec/30_encoding.md R124). A
rejection carries the reason code `S0[23:16]` (R108, R118). -/
inductive Report where
  | result (values : List (List Word))
  | rejected (reason : Field8)
  | deviceFault
deriving DecidableEq, Repr

/-- How the boundary reads a response frame; no response is a halted block, reported as device fault (spec/30_encoding.md R108,
R124). -/
def readAnswer : Option (List Word) → Report
  | none => .deviceFault
  | some [] => .deviceFault
  | some (s0 :: values) =>
    if s0.extractLsb' 24 8 = 0 then .result [values]
    else if s0.extractLsb' 24 8 = 1 then .rejected (s0.extractLsb' 16 8)
    else .deviceFault

/-- Issue frames one by one, stopping at the first that is not answered OK and reporting that answer alone. The stop is
spec/30_encoding.md R119's for STEP. DESIGN CHOICE (log 29): R120 and R122 say nothing of it, and the model stops the seven
frames of ALL and the eight of MEAS with channel 0 in the same way, issuing none of the frames left and dropping the results
already obtained. That a frame the block does not accept at all is a device fault is log 26. -/
def issue : List Instr → State → Report × State
  | [], s => (.result [], s)
  | i :: is, s =>
    match step { s with host := .frame (encode i) :: s.host } with
    | .fault _ => (.deviceFault, s)
    | .refused _ => (.deviceFault, s)
    | .next t =>
      match readAnswer t.out with
      | .rejected reason => (.rejected reason, t)
      | .deviceFault => (.deviceFault, t)
      | .result values =>
        match issue is t with
        | (.result more, u) => (.result (values ++ more), u)
        | (.rejected reason, u) => (.rejected reason, u)
        | (.deviceFault, u) => (.deviceFault, u)

/-- What the caller of a named measurement sees: the value words `V11` to `V18` (spec/30_encoding.md R123). -/
def visibleWords (values : List Word) : List Word := values.drop 10

/-- The value words of an answer that the caller of a pseudo-operation sees: all of them, but for a named measurement
(spec/30_encoding.md R122, R123). -/
def Pseudo.seen : Pseudo → List Word → List Word
  | .measNamed _ _ _, values => visibleWords values
  | .step _ _ _, values | .usbEna _, values | .usbDis _, values | .usbQ _, values | .drvEna _, values | .drvDis _, values
  | .drvQ _, values | .ena _, values | .dis _, values | .q _, values | .setUstep _, values | .getUstep, values
  | .resetPhase, values | .meas _ _ _ _, values => values

/-- A report with every answer's value words changed. -/
def Report.mapValues (f : List Word → List Word) : Report → Report
  | .result values => .result (values.map f)
  | .rejected reason => .rejected reason
  | .deviceFault => .deviceFault

/-- One pseudo-operation at the boundary (spec/30_encoding.md R118 to R124): a rejection is read from the response frame it stands
for, which for BAD_INDEX is `01020000` (R108, spec/60_exceptions.md R308). -/
def runPseudo (p : Pseudo) (s : State) : Report × State :=
  match expand s.cfg p with
  | .error reason => (readAnswer (some (Response.rejected reason).frame), s)
  | .ok is => ((issue is s).1.mapValues p.seen, (issue is s).2)

/-- The answers of the reference slave to a sequence of transfers, each given by its word and the device the mux lines select at
that time: the answer to a transfer carries, in its sample field, the conversion of the channel the transfer before it selected,
on the device selected then (spec/10_state.md R53). `last` is the sample the next answer carries. -/
def referenceSlave (c : Config) (conversion : AdcDev → AdcChan → Code) : Code → List (Word × AdcDev) → List Word
  | _, [] => []
  | last, (w, dev) :: rest =>
    let next := match (List.finRange 12).find? fun ch => c.cmdSelect.get ch == w with
      | some ch => conversion dev ch
      | none => last
    (last.zeroExtend 32 <<< c.sampleLsb.val) :: referenceSlave c conversion next rest

end Sys2Proof.Machine
end

