-- ==== Sys2Proof/Safety.lean ====
section
/-! DEFINITION. What the claims about the machine are stated in: the invariant of the states between two operations, the
actions a trace counts, and the premises under which an operation meets no failing answer. -/

namespace Sys2Proof.Machine

/-- What holds of the block between two operations, whatever frames, answers and resets it was given. -/
structure Inv (s : State) : Prop where
  /-- The parameters meet spec/00_scope.md R7. -/
  cfgValid : s.cfg.valid = true
  /-- `SIG` is the resolution of `SIGPIN` (spec/10_state.md R32). -/
  sigResolved : s.sig = s.cfg.resolve
  /-- `seq` is IDLE unless the block is halted (spec/10_state.md R42). -/
  seqIdle : s.fault.halted = false → s.seq = .idle
  /-- `PRIO` is NORMAL between operations (spec/10_state.md R39). -/
  prioNormal : s.prio = .normal
  /-- The lifecycle state is HALTED exactly after a fatal fault (spec/60_exceptions.md R311). -/
  haltedIff : s.fault.halted = true ↔ s.lc = .halted
  /-- Only the causes 1, 2 and 3 halt the block (spec/60_exceptions.md R301). -/
  haltCause : s.fault.halted = true → 1 ≤ s.fault.cause.code ∧ s.fault.cause.code ≤ 3
  /-- The info recorded belongs to the cause (spec/60_exceptions.md R301). -/
  faultInfo : s.fault.cause = (match s.fault.info with | some f => f.cause | none => Cause.none)
  /-- A configured bus has the three settings of spec/42_spi_transactor.md R182. -/
  spiSettings : s.spi.cfg = .configured →
    s.spi.mode = s.cfg.spiMode.val ∧ s.spi.bits = 16 ∧ s.spi.speed = s.cfg.spiSpeedHz

/-- Whether an action is a completed register access. -/
def Event.isAccess : Event → Bool
  | .read _ _ | .write _ _ => true
  | _ => false

/-- Whether an action is a completed transfer. -/
def Event.isXfer : Event → Bool
  | .xfer _ _ => true
  | _ => false

/-- An action, but for the answer of an elevation request. -/
def Event.withoutGrant : Event → Event
  | .elevate _ => .elevate false
  | e => e

/-- The next `n` answers of a script are all favourable. -/
def Script.grants (free : Nat → Bool) : Nat → Script Bool → Bool
  | 0, _ => true
  | n + 1, q => q.head free && Script.grants free n q.tail

/-- The script after `n` draws. -/
def Script.drop {α : Type} : Nat → Script α → Script α
  | 0, q => q
  | n + 1, q => Script.drop n q.tail

/-- The next `n` answers of a script, free where it has run out. -/
def Script.take {α : Type} (free : Nat → α) : Nat → Script α → List α
  | 0, _ => []
  | n + 1, q => q.head free :: Script.take free n q.tail

/-- The platform lets the next `n` register accesses succeed. -/
abbrev accessesGranted (n : Nat) (s : State) : Prop := s.env.accessOk.grants Config.freeAccessOk n = true

/-- The platform lets the next `n` transfers succeed. -/
abbrev xfersGranted (n : Nat) (s : State) : Prop := s.env.xferOk.grants Config.freeXferOk n = true

/-- The sum of the next `n` answers of a script. -/
def Script.total (free : Nat → Nat) : Nat → Script Nat → Nat
  | 0, _ => 0
  | n + 1, q => q.head free + Script.total free n q.tail

/-- The state some time later, after `n` of the times that the environment's clock moved on
(spec/00_scope.md R12, spec/10_state.md R55). -/
def later (n : Nat) (s : State) : State :=
  { s with clk := s.clk + s.env.gaps.total Config.freeGaps n, env := { s.env with gaps := s.env.gaps.drop n } }

/-- The state after the platform answered `n` register accesses, the clock moving on before each. -/
def accessed (n : Nat) (s : State) : State :=
  { later n s with env := { (later n s).env with accessOk := s.env.accessOk.drop n } }

/-- The state after the platform answered `n` transfers, the clock moving on before each. -/
def transferred (n : Nat) (s : State) : State :=
  { later n s with env := { (later n s).env with xferOk := s.env.xferOk.drop n } }

/-- The level a stored output register holds for a line. -/
def lineBit (r : Vector Word 6) (g : Line) : Bool := (r.get (bankOf g)).getLsbD (bitOf g)

/-- `new` is the register word `old` with the bit of one line at a level and every other bit as it was
(spec/40_gpio_register_access.md R136, R137). -/
abbrev BitWritten (old new : Word) (g : Line) (v : Bool) : Prop :=
  ∀ i < 32, new.getLsbD i = if i = bitOf g then v else old.getLsbD i

/-- Frames presented one after another from `s` are each answered OK, with these value words, and end in `t`. -/
def AnsweredOk : List Instr → State → List (List Word) → State → Prop
  | [], s, values, t => values = [] ∧ t = s
  | i :: is, s, values, t => ∃ u ws more,
    step { s with host := .frame (encode i) :: s.host } = .next u ∧ u.out = some (0x00000000#32 :: ws) ∧ values = ws :: more ∧
      AnsweredOk is u more t

/-! ### The four outcomes (spec/00_scope.md R11), written out -/

/-- The block idle at normal priority with these response words on its port (spec/30_encoding.md R108,
spec/40_gpio_register_access.md R130). -/
def answered (ws : List Word) (s : State) : State := { s with seq := .idle, prio := .normal, out := some ws }

/-- `DEVFAULT`: the cause and its info recorded, status DEVICE_FAULT with no values (spec/60_exceptions.md R310). -/
def afterDeviceFault (f : Raised) (s : State) : State :=
  answered [0x02000000#32] { s with fault := { cause := f.cause, info := some f, halted := s.fault.halted } }

/-- `HALT`: the cause and its info recorded, the block halted, no response (spec/60_exceptions.md R311). -/
def afterHalt (f : Raised) (s : State) : State :=
  { s with fault := { cause := f.cause, info := some f, halted := true }, lc := .halted, prio := .normal, out := none }

/-! ### What an operation may write -/

/-- The format of every opcode, a second time, in the order of the tables of spec/30_encoding.md R102 and R105. -/
def opcodeFormats : List (Nat × Format) :=
  [(0x01, .f0), (0x02, .f0), (0x03, .fp), (0x04, .fpb), (0x05, .fp), (0x06, .fpb), (0x07, .f0), (0x08, .f0)]
    ++ [(0x10, .fp), (0x11, .fp), (0x12, .fa), (0x13, .fa), (0x14, .fa), (0x15, .fa)]
    ++ [(0x20, .f0), (0x21, .fw)]
    ++ [(0x30, .f0), (0x31, .f0), (0x32, .fa), (0x33, .f0), (0x34, .f0), (0x35, .fw), (0x36, .fww)]
    ++ [(0x40, .ft), (0x41, .ft), (0x42, .ft)]
    ++ [(0x50, .fa), (0x51, .f0), (0x52, .fs), (0x53, .f0)]
    ++ [(0x60, .fm)]

/-- How many value words an OK response carries (spec/30_encoding.md R110). -/
def valueCount : Instr → Nat
  | .gopen | .gmap | .gwrlvl _ _ | .gsetdir _ _ | .gcfgall | .grelease | .scfg | .oena _ _ | .odis _ _ | .osetustep _
  | .ostep1 _ _ _ | .ophreset => 0
  | .grdlvl _ | .ggetdir _ | .pconn _ | .pdefdir _ | .pstep _ | .pdir _ | .pen _ | .pusboff _ | .sxfer _ | .aencinit
  | .aenccfg | .aencsel _ | .aencfifo | .aencpd | .adecode _ | .oisena _ _ | .ogetustep => 1
  | .araw2v _ _ => 2
  | .omeasure _ _ _ _ => 18

/-- The line of a power target and an index, absent when the pair is refused or faults (spec/44_power_enable.md R220, R221). -/
def powerLineOf (sig : SignalTable Line) (target idx : Field8) : Option Line :=
  match target.toNat with
  | 0 => if idx = 0 then some sig.pwrBoard else none
  | 1 => if idx = 0 then some sig.pwrEncoders else none
  | 2 => if idx = 0 then some sig.pwrSensors else none
  | 3 => if h : idx.toNat < 7 then some (sig.usbOff.get ⟨idx.toNat, h⟩) else none
  | 4 => if idx = 0 then some sig.pwrDrivebank else none
  | 5 => if idx = 0 then some sig.pwrHicurrent else none
  | 6 => if idx = 0 then some sig.pwrSr else none
  | 7 => if h : idx.toNat < 6 then some (sig.en.get ⟨idx.toNat, h⟩) else none
  | _ => none

/-- The signal line of a drive index, absent when it is out of range (spec/41_pin_layout.md R164). -/
def driveLine (table : Vector Line 6) (idx : Field8) : Option Line :=
  if h : idx.toNat < 6 then some (table.get ⟨idx.toNat, h⟩) else none

/-- The lines GCFGALL configures: those whose policy is not −1 (spec/40_gpio_register_access.md R143). -/
def configuredLines (c : Config) : List Line := (List.finRange 192).filter fun g => c.dirPolicy.get g != .untouched

/-- The bits of the register file an operation may write: which register, and which line's bit of it. -/
def storedBits (i : Instr) (s : State) : List (Latch × Line) :=
  match i with
  | .gwrlvl pin _ => (lineOfInt pin).toList.map fun g => (.dout, g)
  | .gsetdir pin _ => (lineOfInt pin).toList.map fun g => (.oe, g)
  | .gcfgall => (configuredLines s.cfg).map fun g => (.oe, g)
  | .oena target idx | .odis target idx => (powerLineOf s.sig target idx).toList.map fun g => (.dout, g)
  | .osetustep _ => [(.dout, s.sig.ms1), (.dout, s.sig.ms2)]
  | .ostep1 drive dir _ =>
    (if dir = 0 then [] else (driveLine s.sig.dir drive).toList.map fun g => (.dout, g))
      ++ (driveLine s.sig.step drive).toList.map fun g => (.dout, g)
  | .ophreset => [(.dout, s.sig.phaseReset)]
  | .omeasure _ _ _ _ => [(.dout, s.sig.adcSel1), (.dout, s.sig.adcSel2)]
  | .gopen | .gmap | .grdlvl _ | .ggetdir _ | .grelease | .pconn _ | .pdefdir _ | .pstep _ | .pdir _ | .pen _
  | .pusboff _ | .scfg | .sxfer _ | .aencinit | .aenccfg | .aencsel _ | .aencfifo | .aencpd | .adecode _ | .araw2v _ _
  | .oisena _ _ | .ogetustep => []

/-- A stored register of the file. -/
def latchFile (l : Latch) (s : State) : Vector Word 6 :=
  match l with
  | .oe => s.oe
  | .dout => s.dout

/-! ### The statistics of a measurement -/

/-- The samples of a measurement: the answers of the transfers after the first three, decoded (spec/46_measurement.md R273). -/
def measuredSamples (n : Nat) (s : State) : List Code :=
  ((s.env.rx.take Config.freeRx (n + 3)).drop 3).map (decodeSample s.cfg)

/-- The statistics engine at the end of a measurement (spec/46_measurement.md R271, R274 to R278). -/
def measuredStats (c : Config) (st : Stats) : Stats :=
  if (homeTest c (firstPass st)).atHome then refilter c (vote c (homeTest c (firstPass st))) else homeTest c (firstPass st)

/-- The level a read of a line sees: the pad on an input line, the data-out bit on an output line (spec/10_state.md R25). -/
def seenLevel (g : Line) (s : State) : Bool :=
  if lineBit s.oe g then (padWord (bankOf g) s).getLsbD (bitOf g) else lineBit s.dout g

/-- The pin and mapping checks of an operation on a line (spec/40_gpio_register_access.md R132, R134): a pin outside 0..191 halts
the block before any access, in any lifecycle state; a pin in range while the banks are not mapped is a device fault with no
access. -/
def PinChecked (op : Int → Instr) : Prop :=
  (∀ (s : State) (pin : Int), (pin < 0 ∨ 192 ≤ pin) →
    ∃ t, exec (op pin) s = .next t ∧ t = afterHalt (.invalidAddress pin) { s with seq := t.seq }) ∧
  ∀ (s : State) (g : Line), s.lc ≠ .mapped →
    exec (op (g.val : Int)) s = .next (afterDeviceFault (.resourceAbsent .gpio) { s with trace := s.trace ++ [.phase .run] })

/-! ### Binary64 -/

/-- The pattern of a finite binary64 number that is not negative. -/
def isFinite64 (b : BitVec 64) : Prop := b.toNat < 0x7FF * 2 ^ 52

/-- The number a finite, non-negative binary64 pattern stands for (PRESUMED layout, log 18). -/
def value64 (b : BitVec 64) : ℚ :=
  if b.toNat / 2 ^ 52 = 0 then (b.toNat % 2 ^ 52 : ℕ) * (2 : ℚ) ^ (-1074 : ℤ)
  else (2 ^ 52 + b.toNat % 2 ^ 52 : ℕ) * (2 : ℚ) ^ ((b.toNat / 2 ^ 52 : ℕ) - 1075 : ℤ)

end Sys2Proof.Machine
end

