-- ==== Sys2Proof/Certificates/Slice0/Obligations.lean ====
section
/-! DEFINITION. The statements about the machine, for the provers. Each docstring names the rules of spec/ it formalises; where
a clause is the model's own choice it names the log entry. -/

section

open Sys2Proof Sys2Proof.Machine

/-! ### Frames, steps and reset -/

/-- When the block is free and the frame presented decodes to an instruction, one step is some time passing, the external actor's
turn and then that instruction (spec/40_gpio_register_access.md R130). That the clock moves on before a step is log 14, that the
actor's turn comes at the acceptance is log 6, and that the response of the step before is dropped there is log 3. -/
def Obligations.StepRunsDecodedFrame : Prop :=
  ∀ (s : State) (f : Frame) (i : Instr) (rest : List Input),
    s.fault.halted = false → s.seq = .idle → s.host = .frame f :: rest → decode f = .ok i →
      WellFormed i = true ∧ step s = exec i (actorTurn (later 1 { s with host := rest, out := none }))

/-- A halted block accepts nothing and a busy block refuses what is offered (spec/40_gpio_register_access.md R130 (1) and (2));
that these are a fault and a refusal, and that a free block with nothing presented waits while the clock moves on, is logs 6, 7
and 14. No response is kept (spec/10_state.md R46): waiting drops it, and no step depends on the one before it; that a step hands
its response over in the state it leads to is log 3. -/
def Obligations.AcceptanceOrder : Prop :=
  (∀ s : State, s.host.head? ≠ some .reset →
    (s.fault.halted = true → step s = .fault .halted) ∧
    (s.fault.halted = false → s.seq ≠ .idle → step s = .refused .busy) ∧
    (s.fault.halted = false → s.seq = .idle → s.host = [] → step s = .next (later 1 { s with out := none }))) ∧
  ∀ (s : State) (r : Option (List Word)), step { s with out := r } = step s

/-- Exactly the frames of spec/30_encoding.md R106 (a), (b) and (c) are illegal, and an illegal frame is answered
REJECTED(ILLEGAL_FRAME) with nothing accessed and nothing changed but by the time and the external actor's turn before the
acceptance, which are the model's choice (logs 14 and 6). -/
def Obligations.IllegalFrames : Prop :=
  ∀ f : Frame,
    ((∃ e, decode f = .error e) ↔
      (∀ fmt, (f.op.toNat, fmt) ∉ opcodeFormats) ∨
      ∃ fmt, (f.op.toNat, fmt) ∈ opcodeFormats ∧
        (f.c ≠ 0 ∨ (fmt.usesA = false ∧ f.a ≠ 0) ∨ (fmt.usesB = false ∧ f.b ≠ 0) ∨ (fmt.usesImm1 = false ∧ f.w1 ≠ 0) ∨
          (fmt.usesImm2 = false ∧ f.w2 ≠ 0) ∨ (fmt = .fpb ∧ 1 < f.b.toNat))) ∧
    ∀ (s : State) (rest : List Input) (e : DecodeError),
      s.fault.halted = false → s.seq = .idle → s.host = .frame f :: rest → decode f = .error e →
        step s = .next (answered [0x01010000#32] (actorTurn (later 1 { s with host := rest })))

/-- Decoding the frame of a well-formed instruction gives the instruction back, for every operand. -/
def Obligations.DecodeEncode : Prop := ∀ i : Instr, WellFormed i = true → decode (encode i) = .ok i

/-- A frame that decodes is the frame of the instruction it decodes to, and that instruction is well-formed. -/
def Obligations.EncodeDecode : Prop :=
  ∀ (f : Frame) (i : Instr), decode f = .ok i → WellFormed i = true ∧ encode i = f

/-- One frame of each family, written out from its rule, decodes to the instruction it stands for. -/
def Obligations.KnownFramesDecode : Prop :=
  decode { w0 := 0x04000100, w1 := 0x00000025, w2 := 0 } = .ok (.gwrlvl 37 true) ∧
  decode { w0 := 0x10000000, w1 := 0xFFFFFFFB, w2 := 0 } = .ok (.pconn (-5)) ∧
  decode { w0 := 0x21000000, w1 := 0x50000000, w2 := 0 } = .ok (.sxfer 0x50000000) ∧
  decode { w0 := 0x36000000, w1 := 0x00008000, w2 := 0x004C4B40 } = .ok (.araw2v 32768 5000000) ∧
  decode { w0 := 0x40020300, w1 := 0, w2 := 0 } = .ok (.oena 3 2) ∧
  decode { w0 := 0x52030100, w1 := 0x000003E8, w2 := 0 } = .ok (.ostep1 3 1 1000) ∧
  decode { w0 := 0x60050000, w1 := 0x00000004, w2 := 0x00000002 } = .ok (.omeasure 0 5 4 2)

/-- The machine right after reset meets the invariant. -/
def Obligations.ResetMeetsInv : Prop := Inv State.reset

/-- Every step, whatever frame, reset, answer or external write it meets, keeps the invariant. -/
def Obligations.StepKeepsInv : Prop := ∀ s t : State, Inv s → step s = .next t → Inv t

/-- What a reset leaves (spec/70_reset_and_hazards.md R341, R342): taken in any state, even halted, it needs no frame and no
access, and leaves the register file, the clock and the environment as they were; and the machine starts so. That a reset
leaves no response is log 3, that the machine starts with the parameters in `G.OE` and `G.DOUT` and a later reset leaves them
is log 8, and that the clock moves on before a reset and is not turned back by it is logs 14 and 12. -/
def Obligations.ResetValues : Prop :=
  (∀ (s : State) (rest : List Input), s.host = .reset :: rest → ∃ t, step s = .next t ∧
    t.lc = .closed ∧ t.spi.cfg = .unconfigured ∧ t.seq = .idle ∧ t.prio = .normal ∧ t.prioFails = 0 ∧
    t.fault.cause.code = 0 ∧ t.fault.halted = false ∧ t.ustep = none ∧ t.sig = s.cfg.resolve ∧ t.out = none ∧
    t.oe = s.oe ∧ t.dout = s.dout ∧ t.cfg = s.cfg ∧ t.clk = (later 1 s).clk ∧ t.env = (later 1 s).env ∧ t.host = rest) ∧
  (State.reset.lc = .closed ∧ State.reset.spi.cfg = .unconfigured ∧ State.reset.seq = .idle ∧ State.reset.prio = .normal ∧
    State.reset.prioFails = 0 ∧ State.reset.fault.cause.code = 0 ∧ State.reset.fault.halted = false ∧
    State.reset.ustep = none ∧ State.reset.sig = State.reset.cfg.resolve ∧ State.reset.oe = State.reset.cfg.resetOe ∧
    State.reset.dout = State.reset.cfg.resetDout)

/-! ### The register file and what operations leave alone -/

/-- The eighteen registers stand at eighteen different word addresses, each at its base plus its offset without wrap-around, and
the raw accessor finds each at its address and nothing anywhere else (spec/20_memory.md R72, R73, R78). -/
def Obligations.RegisterAddresses : Prop :=
  ∀ c : Config, c.valid = true →
    (∀ k r, regAt c (regAddr c k r) = some (k, r)) ∧
    (∀ addr k r, regAt c addr = some (k, r) → addr = regAddr c k r) ∧
    (∀ k r, (regAddr c k r).toNat = (c.bankBase.get k).toNat + (regOffset c r).toNat ∧ (regAddr c k r).toNat % 4 = 0)

/-- The bank and the bit of a line, its mask, and data-in bit by bit (spec/10_state.md R25, R26, R27). -/
def Obligations.RegisterFileBits : Prop :=
  ∀ g : Line,
    (bankOf g).val = g.val / 32 ∧ bitOf g = g.val % 32 ∧ (maskOf g).toNat = 2 ^ (g.val % 32) ∧
    ∀ s : State, (regValue (bankOf g) .din s).getLsbD (bitOf g) =
      if (s.oe.get (bankOf g)).getLsbD (bitOf g) = false then (s.dout.get (bankOf g)).getLsbD (bitOf g)
      else (padWord (bankOf g) s).getLsbD (bitOf g)

/-- Whatever an operation does, faults included, the only bits of `G.OE` and `G.DOUT` that can differ afterwards are those of
the lines its rule names. -/
def Obligations.OnlyNamedBitsChange : Prop :=
  ∀ (i : Instr) (s t : State), exec i s = .next t →
    ∀ (l : Latch) (g : Line), (l, g) ∉ storedBits i s → lineBit (latchFile l t) g = lineBit (latchFile l s) g

/-- The same by byte address: every byte outside the registers of the named lines and outside data-in reads as before, and an
operation that names no line leaves every byte as it was, data-in included when the pads are the same. -/
def Obligations.BytesOutsideStoresUnchanged : Prop :=
  ∀ (i : Instr) (s t : State), exec i s = .next t →
    (∀ addr : Word,
      (∀ k, addr &&& ~~~3#32 ≠ regAddr s.cfg k .din) →
      (∀ l g, (l, g) ∈ storedBits i s → addr &&& ~~~3#32 ≠ regAddr s.cfg (bankOf g) l.toReg) →
        readByte addr t = readByte addr s) ∧
    (storedBits i s = [] → ∀ addr : Word, readByte addr { t with env := s.env } = readByte addr s)

/-- The tables and parameters never change; each special register is written only by the operations that spec/10_state.md names
for it, and the clock, which is the environment's, only moves on (R55). Every operation ends with PRIO at NORMAL, and with `seq`
at IDLE unless it halts (spec/40_gpio_register_access.md R130, spec/60_exceptions.md R311); that a rejection does so too is log
20. Only a fault writes FAULT: an operation that ends OK (R312) or is rejected (R308) leaves it as it was. -/
def Obligations.SpecialStateFrame : Prop :=
  ∀ (i : Instr) (s t : State), exec i s = .next t →
    (t.cfg = s.cfg ∧ t.sig = s.sig ∧ t.host = s.host) ∧
    (i ≠ .scfg → t.spi.cfg = s.spi.cfg ∧ t.spi.mode = s.spi.mode ∧ t.spi.bits = s.spi.bits ∧ t.spi.speed = s.spi.speed) ∧
    ((∀ w, i ≠ .sxfer w) → (∀ d c n x, i ≠ .omeasure d c n x) → t.spi.tx = s.spi.tx ∧ t.spi.rx = s.spi.rx) ∧
    ((∀ m, i ≠ .osetustep m) → i ≠ .ogetustep → t.ustep = s.ustep) ∧
    ((∀ d c n x, i ≠ .omeasure d c n x) → t.st = s.st) ∧
    ((∀ d r f, i ≠ .ostep1 d r f) → i ≠ .ophreset → t.deadline = s.deadline) ∧ s.clk ≤ t.clk ∧
    ((∀ d r f, i ≠ .ostep1 d r f) → (∀ d c n x, i ≠ .omeasure d c n x) → t.prioFails = s.prioFails) ∧
    (i ≠ .gopen → i ≠ .gmap → i ≠ .grelease → t.lc = s.lc ∨ t.lc = .halted ∧ t.fault.halted = true) ∧
    (t.prio = .normal ∧ (t.out ≠ none → t.seq = .idle)) ∧
    (t.out ≠ none → t.out ≠ some [0x02000000#32] → t.fault = s.fault)

/-- The environment moves freely while the block works (spec/00_scope.md R12). No step turns the clock back (spec/10_state.md
R55); between the two accesses of a GWRLVL, before either, before a transfer and before a step it moves on by any number of ticks;
and at any time the 192 pads stand at any 192 levels, each seen where its line is an input (R51). That the clock moves at these
places is log 14, and how the pads are drawn is log 13. -/
def Obligations.ClockAndPadsMoveFreely : Prop :=
  (∀ s t : State, step s = .next t → s.clk ≤ t.clk) ∧
  (∀ (s : State) (a b : Nat) (rest : List Nat), s.env.gaps.answers = a :: b :: rest →
    (∀ (k : BankIdx) (r : Reg) (x : Word) (u : State), memRead k r s = .done x u → u.clk = s.clk + a) ∧
    (∀ (g : Line) (v : Bool), s.lc = .mapped → accessesGranted 2 s →
      ∃ t, exec (.gwrlvl (g.val : Int) v) s = .next t ∧ t.clk = s.clk + a + b ∧ t.env.gaps.answers = rest) ∧
    (∀ w : Word, s.spi.cfg = .configured → ∃ t, exec (.sxfer w) s = .next t ∧ t.clk = s.clk + a) ∧
    ∀ t : State, s.host = [] → step s = .next t → t.clk = s.clk + a) ∧
  ∀ level : Line → Bool, ∃ pads : Vector Word 6, ∀ (s : State) (rest : List (Vector Word 6)), s.env.pads.answers = pads :: rest →
    ∀ g, lineBit s.oe g = true → lineLevel g s = level g

/-- The external actor may change any bit of `G.OE` and `G.DOUT` to any value between two operations, and touches nothing else of
the block (spec/10_state.md R52). -/
def Obligations.ExternalActor : Prop :=
  (∀ s : State, actorTurn s =
    { s with
      oe := (actorTurn s).oe, dout := (actorTurn s).dout, env := { s.env with actor := s.env.actor.tail } }) ∧
  ∀ oe dout : Vector Word 6, ∃ ws : List ActorWrite, ∀ s : State, actorWrites s = ws →
    (actorTurn s).oe = oe ∧ (actorTurn s).dout = dout

/-- Every response is one of those of spec/30_encoding.md R108 to R110: OK with the fixed number of value words, REJECTED with
reason BAD_ARG or BAD_STATE (never BAD_INDEX) or DEVICE_FAULT with none, and no response exactly after a halt. -/
def Obligations.ResponseFrames : Prop :=
  ∀ (i : Instr) (s : State), s.fault.halted = false → ∃ t, exec i s = .next t ∧
    ((∃ ws, t.out = some (0x00000000#32 :: ws) ∧ ws.length = valueCount i) ∨ t.out = some [0x01030000#32] ∨
      t.out = some [0x01040000#32] ∨ t.out = some [0x02000000#32] ∨ t.out = none) ∧
    (t.out = none ↔ t.fault.halted = true)

/-- Taking a fault (spec/60_exceptions.md R301, R310, R311): the cause's number, which causes halt, and what fault entry and halt
entry write. That the info is kept in FAULT is log 16. -/
def Obligations.FaultEntry : Prop :=
  ∀ (f : Raised) (s : State),
    (match f with
      | .fatalInit _ => f.cause.code = 1 ∧ takeFault f s = afterHalt f s
      | .fatalConfig _ _ => f.cause.code = 2 ∧ takeFault f s = afterHalt f s
      | .invalidAddress _ => f.cause.code = 3 ∧ takeFault f s = afterHalt f s
      | .deviceIo _ => f.cause.code = 4 ∧ takeFault f s = afterDeviceFault f s
      | .resourceAbsent _ => f.cause.code = 5 ∧ takeFault f s = afterDeviceFault f s)

/-! ### Family 0x0: register access -/

/-- GOPEN (spec/40_gpio_register_access.md R131). The block does not write the clock (spec/10_state.md R55,
spec/60_exceptions.md R322); when it moves is log 14. -/
def Obligations.Gopen : Prop :=
  encode .gopen = { w0 := 0x01000000, w1 := 0, w2 := 0 } ∧
  ∀ s : State,
    (s.lc ≠ .closed → exec .gopen s = .next (answered [0x01040000#32] s)) ∧
    (s.lc = .closed → openOk s = true →
      exec .gopen s = .next (answered [0x00000000#32]
        { s with
          lc := .opened
          env := { s.env with openOk := s.env.openOk.tail }
          trace := s.trace ++ [.phase .run] })) ∧
    (s.lc = .closed → openOk s = false → ∃ t, exec .gopen s = .next t ∧
      t = afterHalt (.fatalInit .openDevice)
        { s with seq := t.seq, env := { s.env with openOk := s.env.openOk.tail }, trace := s.trace ++ [.phase .run] })

/-- GMAP (spec/40_gpio_register_access.md R133): all six banks or none. The block does not write the clock (spec/10_state.md
R55, spec/60_exceptions.md R322); when it moves is log 14. -/
def Obligations.Gmap : Prop :=
  encode .gmap = { w0 := 0x02000000, w1 := 0, w2 := 0 } ∧
  ∀ s : State,
    (s.lc ≠ .opened → exec .gmap s = .next (answered [0x01040000#32] s)) ∧
    (s.lc = .opened → s.env.mapOk.grants Config.freeMapOk 6 = true →
      exec .gmap s = .next (answered [0x00000000#32]
        { s with
          lc := .mapped
          env := { s.env with mapOk := s.env.mapOk.drop 6 }
          trace := s.trace ++ [.phase .run] })) ∧
    (∀ k : BankIdx, s.lc = .opened → s.env.mapOk.grants Config.freeMapOk k.val = true →
      (s.env.mapOk.drop k.val).head Config.freeMapOk = false → ∃ t, exec .gmap s = .next t ∧
        t = afterHalt (.fatalInit (.map k))
          { s with
            seq := t.seq
            env := { s.env with mapOk := s.env.mapOk.drop (k.val + 1) }
            trace := s.trace ++ [.phase .run] })

/-- GRELEASE (spec/40_gpio_register_access.md R145). The block does not write the clock (spec/10_state.md R55,
spec/60_exceptions.md R322); when it moves is log 14. -/
def Obligations.Grelease : Prop :=
  encode .grelease = { w0 := 0x08000000, w1 := 0, w2 := 0 } ∧
  ∀ s : State,
    (s.lc ≠ .mapped → exec .grelease s = .next (answered [0x01040000#32] s)) ∧
    (s.lc = .mapped →
      exec .grelease s = .next (answered [0x00000000#32] { s with lc := .released, trace := s.trace ++ [.phase .run] }))

/-- GRDLVL (spec/40_gpio_register_access.md R135): the pin and mapping checks; then one read of data-in, and the line's bit of
it. That the clock moves on before the access is log 14, and that the read draws new pads is log 13. -/
def Obligations.Grdlvl : Prop :=
  (∀ pin : Int, encode (.grdlvl pin) = { w0 := 0x03000000, w1 := BitVec.ofInt 32 pin, w2 := 0 }) ∧
  PinChecked .grdlvl ∧
  ∀ (s : State) (g : Line), s.lc = .mapped →
    (accessOk s = true →
      exec (.grdlvl (g.val : Int)) s = .next (answered [0x00000000#32, if seenLevel g s then 1 else 0]
        { accessed 1 s with
          env := { (accessed 1 s).env with pads := s.env.pads.tail }
          trace := s.trace ++ [.phase .run, .read (regAddr s.cfg (bankOf g) .din) (regValue (bankOf g) .din s)] })) ∧
    (accessOk s = false →
      exec (.grdlvl (g.val : Int)) s = .next
        (afterDeviceFault (.deviceIo (.register (regAddr s.cfg (bankOf g) .din)))
          { accessed 1 s with
            trace := s.trace ++ [.phase .run, .accessFailed (regAddr s.cfg (bankOf g) .din)] }))

/-- GWRLVL (spec/40_gpio_register_access.md R136, R137): the pin and mapping checks; then one read and one write of the line's
data-out register, the line's bit the level and every other bit as it was; a failed access leaves the register file alone. That
the clock moves on before each access is log 14. -/
def Obligations.Gwrlvl : Prop :=
  (∀ (pin : Int) (v : Bool), encode (.gwrlvl pin v) =
    { w0 := 0x04000000#32 ||| ((if v then 1#32 else 0#32) <<< 8), w1 := BitVec.ofInt 32 pin, w2 := 0 }) ∧
  (∀ v : Bool, PinChecked (.gwrlvl · v)) ∧
  ∀ (s : State) (g : Line) (v : Bool), s.lc = .mapped →
    (accessesGranted 2 s → ∃ t, exec (.gwrlvl (g.val : Int) v) s = .next t ∧
      (∀ h, lineBit t.dout h = if h = g then v else lineBit s.dout h) ∧
      t = answered [0x00000000#32]
        { accessed 2 s with
          dout := t.dout
          trace := s.trace ++
            [.phase .run, .read (regAddr s.cfg (bankOf g) .dout) (s.dout.get (bankOf g)),
              .write (regAddr s.cfg (bankOf g) .dout) (t.dout.get (bankOf g))] }) ∧
    (accessOk s = false →
      exec (.gwrlvl (g.val : Int) v) s = .next
        (afterDeviceFault (.deviceIo (.register (regAddr s.cfg (bankOf g) .dout)))
          { accessed 1 s with
            trace := s.trace ++ [.phase .run, .accessFailed (regAddr s.cfg (bankOf g) .dout)] })) ∧
    (accessOk s = true → accessOk (tookAccess s) = false →
      exec (.gwrlvl (g.val : Int) v) s = .next
        (afterDeviceFault (.deviceIo (.register (regAddr s.cfg (bankOf g) .dout)))
          { accessed 2 s with
            trace := s.trace ++
              [.phase .run, .read (regAddr s.cfg (bankOf g) .dout) (s.dout.get (bankOf g)),
                .accessFailed (regAddr s.cfg (bankOf g) .dout)] }))

/-- GGETDIR (spec/40_gpio_register_access.md R139): the pin and mapping checks; then the direction bit, 1 for input, 0 for
output. That the clock moves on before the access is log 14. -/
def Obligations.Ggetdir : Prop :=
  (∀ pin : Int, encode (.ggetdir pin) = { w0 := 0x05000000, w1 := BitVec.ofInt 32 pin, w2 := 0 }) ∧
  PinChecked .ggetdir ∧
  ∀ (s : State) (g : Line), s.lc = .mapped →
    (accessOk s = true →
      exec (.ggetdir (g.val : Int)) s = .next (answered [0x00000000#32, if lineBit s.oe g then 1 else 0]
        { accessed 1 s with
          trace := s.trace ++ [.phase .run, .read (regAddr s.cfg (bankOf g) .oe) (s.oe.get (bankOf g))] })) ∧
    (accessOk s = false →
      exec (.ggetdir (g.val : Int)) s = .next
        (afterDeviceFault (.deviceIo (.register (regAddr s.cfg (bankOf g) .oe)))
          { accessed 1 s with
            trace := s.trace ++ [.phase .run, .accessFailed (regAddr s.cfg (bankOf g) .oe)] }))

/-- GSETDIR (spec/40_gpio_register_access.md R136, R141): the pin and mapping checks; then the line's direction bit and no other
bit of any register changes; a failed access leaves the register file alone. That the clock moves on before each access is log
14. -/
def Obligations.Gsetdir : Prop :=
  (∀ (pin : Int) (v : Bool), encode (.gsetdir pin v) =
    { w0 := 0x06000000#32 ||| ((if v then 1#32 else 0#32) <<< 8), w1 := BitVec.ofInt 32 pin, w2 := 0 }) ∧
  (∀ v : Bool, PinChecked (.gsetdir · v)) ∧
  ∀ (s : State) (g : Line) (v : Bool), s.lc = .mapped →
    (accessesGranted 2 s → ∃ t, exec (.gsetdir (g.val : Int) v) s = .next t ∧
      (∀ h, lineBit t.oe h = if h = g then v else lineBit s.oe h) ∧
      t = answered [0x00000000#32]
        { accessed 2 s with
          oe := t.oe
          trace := s.trace ++
            [.phase .run, .read (regAddr s.cfg (bankOf g) .oe) (s.oe.get (bankOf g)),
              .write (regAddr s.cfg (bankOf g) .oe) (t.oe.get (bankOf g))] }) ∧
    (accessOk s = false →
      exec (.gsetdir (g.val : Int) v) s = .next
        (afterDeviceFault (.deviceIo (.register (regAddr s.cfg (bankOf g) .oe)))
          { accessed 1 s with
            trace := s.trace ++ [.phase .run, .accessFailed (regAddr s.cfg (bankOf g) .oe)] })) ∧
    (accessOk s = true → accessOk (tookAccess s) = false →
      exec (.gsetdir (g.val : Int) v) s = .next
        (afterDeviceFault (.deviceIo (.register (regAddr s.cfg (bankOf g) .oe)))
          { accessed 2 s with
            trace := s.trace ++
              [.phase .run, .read (regAddr s.cfg (bankOf g) .oe) (s.oe.get (bankOf g)),
                .accessFailed (regAddr s.cfg (bankOf g) .oe)] }))

/-- GCFGALL (spec/40_gpio_register_access.md R143): a device fault with no access while the banks are not mapped; with every
access granted it completes, each line takes its policy and an untouched line keeps its bit, in exactly two accesses per
configured line; when its access number k (from 0) is refused, that is an access of the configured line number k div 2, the
lines before that one stay configured, that one and the lines after it are as before, no later access is made, and the outcome
is a device fault at that line's register. That the clock moves on before each access is log 14. -/
def Obligations.Gcfgall : Prop :=
  encode .gcfgall = { w0 := 0x07000000, w1 := 0, w2 := 0 } ∧
  (∀ s : State, s.lc ≠ .mapped → exec .gcfgall s = .next (afterDeviceFault (.resourceAbsent .gpio) s)) ∧
  ∀ s : State, s.lc = .mapped →
    (accessesGranted (2 * (configuredLines s.cfg).length) s → ∃ t, exec .gcfgall s = .next t ∧
      (∀ h, lineBit t.oe h =
        match s.cfg.dirPolicy.get h with
        | .untouched => lineBit s.oe h
        | .output => false
        | .input => true) ∧
      t = answered [0x00000000#32]
        { accessed (2 * (configuredLines s.cfg).length) s with oe := t.oe, trace := t.trace } ∧
      (t.trace.filter Event.isAccess).length =
        (s.trace.filter Event.isAccess).length + 2 * (configuredLines s.cfg).length) ∧
    (∀ (k : Nat) (g : Line), (configuredLines s.cfg)[k / 2]? = some g → accessesGranted k s → ¬ accessesGranted (k + 1) s →
      ∃ t, exec .gcfgall s = .next t ∧
        (∀ h, lineBit t.oe h =
          if g ≤ h then lineBit s.oe h
          else match s.cfg.dirPolicy.get h with
            | .untouched => lineBit s.oe h
            | .output => false
            | .input => true) ∧
        t = afterDeviceFault (.deviceIo (.register (regAddr s.cfg (bankOf g) .oe)))
          { accessed (k + 1) s with oe := t.oe, trace := t.trace } ∧
        (t.trace.filter Event.isAccess).length = (s.trace.filter Event.isAccess).length + k)

/-- The spec's inferences about GCFGALL (spec/40_gpio_register_access.md, the sentence that follows from R143 and R136): the
iteration order does not matter, and a second GCFGALL changes no register. -/
def Obligations.GcfgallOrderAndRepeat : Prop :=
  (∀ (s : State) (lines : List Line), List.Perm lines (List.finRange 192) →
    accessesGranted (2 * (configuredLines s.cfg).length) s → ∃ t u,
      configLines lines s = .done () t ∧ configLines (List.finRange 192) s = .done () u ∧ t.oe = u.oe ∧ t.dout = s.dout) ∧
  ∀ s t : State, s.lc = .mapped → accessesGranted (4 * (configuredLines s.cfg).length) s →
    exec .gcfgall s = .next t → ∃ u, exec .gcfgall t = .next u ∧ u.oe = t.oe ∧ u.dout = t.dout ∧ u.out = some [0#32]

/-- The spec's inferences about GWRLVL (spec/40_gpio_register_access.md, the consequences of R137 and R25): a line configured as
an output reads back the level written, and writes to two lines commute. -/
def Obligations.WriteThenRead : Prop :=
  (∀ (s t : State) (g : Line) (v : Bool), s.lc = .mapped → accessesGranted 3 s → lineBit s.oe g = false →
    exec (.gwrlvl (g.val : Int) v) s = .next t →
      ∃ u, exec (.grdlvl (g.val : Int)) t = .next u ∧ u.out = some [0#32, if v then 1 else 0]) ∧
  ∀ (s : State) (g h : Line) (v w : Bool), g ≠ h → s.lc = .mapped → accessesGranted 4 s → ∃ t1 t2 u1 u2,
    exec (.gwrlvl (g.val : Int) v) s = .next t1 ∧ exec (.gwrlvl (h.val : Int) w) t1 = .next t2 ∧
    exec (.gwrlvl (h.val : Int) w) s = .next u1 ∧ exec (.gwrlvl (g.val : Int) v) u1 = .next u2 ∧
    t2.dout = u2.dout ∧ t2.oe = u2.oe

/-! ### Family 0x1: the pin layout table -/

/-- PCONN (spec/41_pin_layout.md R161): total, with no fault for any operand, in any state. The clock stands like all other
state (spec/41_pin_layout.md R160); when it moves is log 14. -/
def Obligations.Pconn : Prop :=
  (∀ pin : Int, encode (.pconn pin) = { w0 := 0x10000000, w1 := BitVec.ofInt 32 pin, w2 := 0 }) ∧
  (∀ (s : State) (pin : Int), (pin < 1 ∨ 140 < pin) →
    exec (.pconn pin) s = .next (answered [0x00000000#32, 0xFFFFFFFF#32] { s with trace := s.trace ++ [.phase .run] })) ∧
  (∀ (s : State) (p : Fin 140),
    exec (.pconn (p.val + 1 : Nat)) s = .next (answered
      [0x00000000#32, match s.cfg.conn2gpio.get p with | some g => BitVec.ofNat 32 g.val | none => 0xFFFFFFFF#32]
      { s with trace := s.trace ++ [.phase .run] })) ∧
  ∀ s : State, s.cfg.valid = true → ∃ t u, exec (.pconn 10) s = .next t ∧ t.out = some [0x00000000#32, 0x000000B9#32] ∧
    exec (.pconn 36) s = .next u ∧ u.out = some [0x00000000#32, 0xFFFFFFFF#32]

/-- PDEFDIR (spec/41_pin_layout.md R163): total, with no fault for any operand, in any state. The clock stands like all other
state (spec/41_pin_layout.md R160); when it moves is log 14. -/
def Obligations.Pdefdir : Prop :=
  (∀ gpio : Int, encode (.pdefdir gpio) = { w0 := 0x11000000, w1 := BitVec.ofInt 32 gpio, w2 := 0 }) ∧
  (∀ (s : State) (gpio : Int), (gpio < 0 ∨ 191 < gpio) →
    exec (.pdefdir gpio) s = .next (answered [0x00000000#32, 0xFFFFFFFF#32] { s with trace := s.trace ++ [.phase .run] })) ∧
  ∀ (s : State) (g : Line),
    exec (.pdefdir (g.val : Int)) s = .next (answered
      [0x00000000#32, match s.cfg.dirPolicy.get g with | .untouched => 0xFFFFFFFF#32 | .output => 0#32 | .input => 1#32]
      { s with trace := s.trace ++ [.phase .run] })

/-- PSTEP, PDIR, PEN and PUSBOFF (spec/41_pin_layout.md R164 to R168): the line of the signal in range, a halt out of range. In
range the clock stands like all other state (spec/41_pin_layout.md R160), and a halt does not write it (spec/60_exceptions.md
R322); when it moves is log 14. -/
def Obligations.SignalAccessors : Prop :=
  (∀ i : Field8,
    encode (.pstep i) = { w0 := 0x12000000#32 ||| (i.zeroExtend 32 <<< 16), w1 := 0, w2 := 0 } ∧
    encode (.pdir i) = { w0 := 0x13000000#32 ||| (i.zeroExtend 32 <<< 16), w1 := 0, w2 := 0 } ∧
    encode (.pen i) = { w0 := 0x14000000#32 ||| (i.zeroExtend 32 <<< 16), w1 := 0, w2 := 0 } ∧
    encode (.pusboff i) = { w0 := 0x15000000#32 ||| (i.zeroExtend 32 <<< 16), w1 := 0, w2 := 0 }) ∧
  (∀ (s : State) (d : Drive) (op : Field8 → Instr) (table : Vector Line 6),
    (op, table) ∈ [(Instr.pstep, s.sig.step), (Instr.pdir, s.sig.dir), (Instr.pen, s.sig.en)] →
      exec (op (BitVec.ofNat 8 d.val)) s = .next (answered [0x00000000#32, BitVec.ofNat 32 (table.get d).val]
        { s with trace := s.trace ++ [.phase .run] })) ∧
  (∀ (s : State) (u : Usb),
    exec (.pusboff (BitVec.ofNat 8 u.val)) s = .next (answered [0x00000000#32, BitVec.ofNat 32 (s.sig.usbOff.get u).val]
      { s with trace := s.trace ++ [.phase .run] })) ∧
  (∀ (s : State) (i : Field8) (op : Field8 → Instr), 6 ≤ i.toNat → op ∈ [Instr.pstep, .pdir, .pen] →
    ∃ t, exec (op i) s = .next t ∧ t = afterHalt (.invalidAddress i.toNat) { s with seq := t.seq }) ∧
  ∀ (s : State) (j : Field8), 7 ≤ j.toNat →
    ∃ t, exec (.pusboff j) s = .next t ∧ t = afterHalt (.invalidAddress j.toNat) { s with seq := t.seq }

/-! ### Family 0x2: the SPI word transactor -/

/-- SCFG (spec/42_spi_transactor.md R182): refused when configured; fatal when the device cannot be opened, a set call or a
read-back call fails, or a read-back value differs; otherwise configured with the three settings. The block does not write the
clock (spec/10_state.md R55, spec/60_exceptions.md R322); when it moves is log 14. -/
def Obligations.Scfg : Prop :=
  encode .scfg = { w0 := 0x20000000, w1 := 0, w2 := 0 } ∧
  ∀ s : State,
    (s.spi.cfg = .configured → exec .scfg s = .next (answered [0x01040000#32] s)) ∧
    (s.spi.cfg ≠ .configured → spiOpenOk s = false → ∃ t, exec .scfg s = .next t ∧
      t = afterHalt (.fatalInit .spiOpen) { s with seq := t.seq, env := t.env, trace := t.trace }) ∧
    (∀ (j : Nat) (x : SpiSetting), [SpiSetting.mode, .bits, .speed][j]? = some x →
      s.spi.cfg ≠ .configured → spiOpenOk s = true → s.env.ioctlOk.grants Config.freeIoctlOk j = true →
      (s.env.ioctlOk.drop j).head Config.freeIoctlOk = false → ∃ t, exec .scfg s = .next t ∧
        t = afterHalt (.fatalConfig .set x) { s with seq := t.seq, env := t.env, trace := t.trace }) ∧
    (∀ (j : Nat) (x : SpiSetting), [SpiSetting.mode, .bits, .speed][j]? = some x →
      s.spi.cfg ≠ .configured → spiOpenOk s = true → s.env.ioctlOk.grants Config.freeIoctlOk (3 + j) = true →
      s.env.readback.take Config.freeReadback j = [s.cfg.spiMode.val, 16, s.cfg.spiSpeedHz].take j →
      (s.env.ioctlOk.drop (3 + j)).head Config.freeIoctlOk = false → ∃ t, exec .scfg s = .next t ∧
        t = afterHalt (.fatalConfig .get x) { s with seq := t.seq, env := t.env, trace := t.trace }) ∧
    (∀ (j : Nat) (x : SpiSetting), [SpiSetting.mode, .bits, .speed][j]? = some x →
      s.spi.cfg ≠ .configured → spiOpenOk s = true → s.env.ioctlOk.grants Config.freeIoctlOk (4 + j) = true →
      s.env.readback.take Config.freeReadback j = [s.cfg.spiMode.val, 16, s.cfg.spiSpeedHz].take j →
      some ((s.env.readback.drop j).head Config.freeReadback) ≠ [s.cfg.spiMode.val, 16, s.cfg.spiSpeedHz][j]? →
        ∃ t, exec .scfg s = .next t ∧
          t = afterHalt (.fatalConfig .mismatch x) { s with seq := t.seq, env := t.env, trace := t.trace }) ∧
    (s.spi.cfg ≠ .configured → spiOpenOk s = true → s.env.ioctlOk.grants Config.freeIoctlOk 6 = true →
      s.env.readback.take Config.freeReadback 3 = [s.cfg.spiMode.val, 16, s.cfg.spiSpeedHz] →
        exec .scfg s = .next (answered [0x00000000#32]
          { s with
            spi :=
              { s.spi with cfg := .configured, mode := s.cfg.spiMode.val, bits := 16, speed := s.cfg.spiSpeedHz }
            env :=
              { s.env with
                spiOpenOk := s.env.spiOpenOk.tail, ioctlOk := s.env.ioctlOk.drop 6, readback := s.env.readback.drop 3 }
            trace := s.trace ++
              [.phase .run, .spiSet .mode s.cfg.spiMode.val, .spiSet .bits 16, .spiSet .speed s.cfg.spiSpeedHz,
                .spiGet .mode s.cfg.spiMode.val, .spiGet .bits 16, .spiGet .speed s.cfg.spiSpeedHz] }))

/-- SXFER (spec/42_spi_transactor.md R184, R186): one full-duplex transfer of any word; a device fault on an unconfigured bus,
with nothing sent, or when the transfer fails. That the clock moves on before the transfer is log 14. -/
def Obligations.Sxfer : Prop :=
  (∀ w : Word, encode (.sxfer w) = { w0 := 0x21000000, w1 := w, w2 := 0 }) ∧
  ∀ (s : State) (w : Word),
    (s.spi.cfg = .configured → xferOk s = true →
      exec (.sxfer w) s = .next (answered [0x00000000#32, rxWord s]
        { transferred 1 s with
          spi := { s.spi with tx := w, rx := rxWord s }
          env := { (transferred 1 s).env with rx := s.env.rx.tail }
          trace := s.trace ++ [.phase .run, .xfer w (rxWord s)] })) ∧
    (s.spi.cfg = .configured → xferOk s = false →
      exec (.sxfer w) s = .next (afterDeviceFault (.deviceIo .spi)
        { transferred 1 s with
          spi := { s.spi with tx := w }
          trace := s.trace ++ [.phase .run, .xferFailed w] })) ∧
    (s.spi.cfg ≠ .configured →
      exec (.sxfer w) s = .next (afterDeviceFault (.resourceAbsent .spi) { s with trace := s.trace ++ [.phase .run] }))

/-! ### Family 0x3: the ADC codec -/

/-- AENCINIT, AENCCFG, AENCFIFO, AENCPD and AENCSEL (spec/43_adc_codec.md R201 to R205). A command word changes no state, the
clock included (spec/43_adc_codec.md R200); when the clock moves is log 14. -/
def Obligations.CodecCommandWords : Prop :=
  (encode .aencinit = { w0 := 0x30000000, w1 := 0, w2 := 0 } ∧ encode .aenccfg = { w0 := 0x31000000, w1 := 0, w2 := 0 } ∧
    encode .aencfifo = { w0 := 0x33000000, w1 := 0, w2 := 0 } ∧ encode .aencpd = { w0 := 0x34000000, w1 := 0, w2 := 0 } ∧
    ∀ c : Field8, encode (.aencsel c) = { w0 := 0x32000000#32 ||| (c.zeroExtend 32 <<< 16), w1 := 0, w2 := 0 }) ∧
  (∀ (s : State) (i : Instr) (w : Word),
    (i, w) ∈ [(Instr.aencinit, s.cfg.cmdInit), (Instr.aenccfg, s.cfg.cmdConfig), (Instr.aencfifo, s.cfg.cmdReadFifo),
      (Instr.aencpd, s.cfg.cmdPowerDown)] →
      exec i s = .next (answered [0x00000000#32, w] { s with trace := s.trace ++ [.phase .run] })) ∧
  (∀ (s : State) (c : AdcChan),
    exec (.aencsel (BitVec.ofNat 8 c.val)) s = .next (answered [0x00000000#32, s.cfg.cmdSelect.get c]
      { s with trace := s.trace ++ [.phase .run] })) ∧
  ∀ (s : State) (c : Field8), 12 ≤ c.toNat →
    ∃ t, exec (.aencsel c) s = .next t ∧ t = afterHalt (.invalidAddress c.toNat) { s with seq := t.seq }

/-- ADECODE (spec/43_adc_codec.md R206): the sixteen bits of the word from SAMPLE_LSB on, every word accepted. The clock stands
like all other state (spec/43_adc_codec.md R200); when it moves is log 14. -/
def Obligations.Adecode : Prop :=
  (∀ w : Word, encode (.adecode w) = { w0 := 0x35000000, w1 := w, w2 := 0 }) ∧
  ∀ (s : State) (w : Word),
    exec (.adecode w) s = .next (answered [0x00000000#32, (w >>> s.cfg.sampleLsb.val) &&& 0x0000FFFF#32]
      { s with trace := s.trace ++ [.phase .run] })

/-- ARAW2V (spec/43_adc_codec.md R207): a raw code above 65535 is refused; otherwise the answer is the binary64 nearest to the
exact voltage, high word first, and no other state changes. What nearest means is `RoundBinary64Nearest`. The clock stands like
all other state (spec/43_adc_codec.md R200); when it moves is log 14. -/
def Obligations.Araw2v : Prop :=
  (∀ raw fs : Word, encode (.araw2v raw fs) = { w0 := 0x36000000, w1 := raw, w2 := fs }) ∧
  ∀ (s : State) (raw fs : Word),
    (65535 < raw.toNat → exec (.araw2v raw fs) s = .next (answered [0x01030000#32] s)) ∧
    (raw.toNat ≤ 65535 → ∃ hi lo : Word,
      hi ++ lo = roundBinary64 (raw.toNat * fs.toNat) (s.cfg.adcCodeSpan * 1000000) ∧
      exec (.araw2v raw fs) s = .next (answered [0x00000000#32, hi, lo] { s with trace := s.trace ++ [.phase .run] }))

/-- `round_binary64` (spec/43_adc_codec.md R207) and its use on a square root (spec/46_measurement.md R279): of all finite binary64
numbers that are not negative none is nearer to the number rounded, and of two equally near the one with an even significand is
taken. The binary64 layout and that the square root is rounded once are the model's (log 18). -/
def Obligations.RoundBinary64Nearest : Prop :=
  (∀ num den : Nat, 0 < den → num < den * 2 ^ 1023 →
    isFinite64 (roundBinary64 num den) ∧
    ∀ b : BitVec 64, isFinite64 b →
      |value64 (roundBinary64 num den) - (num : ℚ) / den| ≤ |value64 b - (num : ℚ) / den| ∧
      (b ≠ roundBinary64 num den →
        |value64 (roundBinary64 num den) - (num : ℚ) / den| = |value64 b - (num : ℚ) / den| →
          (roundBinary64 num den).getLsbD 0 = false)) ∧
  ∀ num den : Nat, 0 < den → num < den * 2 ^ 2046 →
    isFinite64 (roundSqrtBinary64 num den) ∧
    ∀ b : BitVec 64, isFinite64 b →
      |(value64 (roundSqrtBinary64 num den) : ℝ) - Real.sqrt ((num : ℝ) / den)| ≤
        |(value64 b : ℝ) - Real.sqrt ((num : ℝ) / den)| ∧
      (b ≠ roundSqrtBinary64 num den →
        |(value64 (roundSqrtBinary64 num den) : ℝ) - Real.sqrt ((num : ℝ) / den)| =
          |(value64 b : ℝ) - Real.sqrt ((num : ℝ) / den)| →
            (roundSqrtBinary64 num den).getLsbD 0 = false)

/-! ### Family 0x4: power and enable -/

/-- The argument checks of OENA, ODIS and OISENA (spec/44_power_enable.md R220, R221): which pairs of a target and an index name
a line, which are refused, and which halt the block. The block does not write the clock (spec/10_state.md R55,
spec/60_exceptions.md R322); when it moves is log 14. -/
def Obligations.PowerTargets : Prop :=
  ∀ (s : State) (target idx : Field8) (op : Field8 → Field8 → Instr), op ∈ [Instr.oena, .odis, .oisena] →
    (7 < target.toNat → exec (op target idx) s = .next (answered [0x01030000#32] s)) ∧
    (target ∈ [0#8, 1#8, 2#8, 4#8, 5#8, 6#8] → idx ≠ 0 → exec (op target idx) s = .next (answered [0x01030000#32] s)) ∧
    (target = 3 → 7 ≤ idx.toNat → ∃ t, exec (op target idx) s = .next t ∧
      t = afterHalt (.invalidAddress idx.toNat) { s with seq := t.seq }) ∧
    (target = 7 → 6 ≤ idx.toNat → ∃ t, exec (op target idx) s = .next t ∧
      t = afterHalt (.invalidAddress idx.toNat) { s with seq := t.seq }) ∧
    ((∃ g, powerLineOf s.sig target idx = some g) → s.lc ≠ .mapped →
      exec (op target idx) s = .next (afterDeviceFault (.resourceAbsent .gpio) { s with trace := s.trace ++ [.phase .run] }))

/-- OENA and ODIS on a line (spec/44_power_enable.md R223, R224): level 0 and level 1 on the target's line, nothing else of the
register file changed. That the clock moves on before each access is log 14. -/
def Obligations.EnableAndDisable : Prop :=
  (∀ t a : Field8,
    encode (.oena t a) =
      { w0 := 0x40000000#32 ||| (a.zeroExtend 32 <<< 16) ||| (t.zeroExtend 32 <<< 8), w1 := 0, w2 := 0 } ∧
    encode (.odis t a) =
      { w0 := 0x41000000#32 ||| (a.zeroExtend 32 <<< 16) ||| (t.zeroExtend 32 <<< 8), w1 := 0, w2 := 0 }) ∧
  ∀ (s : State) (target idx : Field8) (g : Line) (op : Field8 → Field8 → Instr) (v : Bool),
    (op, v) ∈ [(Instr.oena, false), (Instr.odis, true)] → powerLineOf s.sig target idx = some g → s.lc = .mapped →
    (∀ k < 2, accessesGranted k s → ¬ accessesGranted (k + 1) s →
      exec (op target idx) s = .next (afterDeviceFault (.deviceIo (.register (regAddr s.cfg (bankOf g) .dout)))
        { accessed (k + 1) s with
          trace := s.trace ++ ([.phase .run] ++ [.read (regAddr s.cfg (bankOf g) .dout) (s.dout.get (bankOf g))].take k
            ++ [.accessFailed (regAddr s.cfg (bankOf g) .dout)]) })) ∧
    (accessesGranted 2 s → ∃ t, exec (op target idx) s = .next t ∧
      (∀ h, lineBit t.dout h = if h = g then v else lineBit s.dout h) ∧
      t = answered [0x00000000#32]
        { accessed 2 s with
          dout := t.dout
          trace := s.trace ++
            [.phase .run, .read (regAddr s.cfg (bankOf g) .dout) (s.dout.get (bankOf g)),
              .write (regAddr s.cfg (bankOf g) .dout) (t.dout.get (bankOf g))] })

/-- OISENA on a line (spec/44_power_enable.md R225): the inverse of the level the line shows now. That the clock moves on before
the access is log 14, and that the read draws new pads is log 13. -/
def Obligations.Oisena : Prop :=
  (∀ t a : Field8, encode (.oisena t a) =
    { w0 := 0x42000000#32 ||| (a.zeroExtend 32 <<< 16) ||| (t.zeroExtend 32 <<< 8), w1 := 0, w2 := 0 }) ∧
  ∀ (s : State) (target idx : Field8) (g : Line), powerLineOf s.sig target idx = some g → s.lc = .mapped →
    (accessOk s = true →
      exec (.oisena target idx) s = .next (answered [0x00000000#32, if seenLevel g s then 0 else 1]
        { accessed 1 s with
          env := { (accessed 1 s).env with pads := s.env.pads.tail }
          trace := s.trace ++ [.phase .run, .read (regAddr s.cfg (bankOf g) .din) (regValue (bankOf g) .din s)] })) ∧
    (accessOk s = false →
      exec (.oisena target idx) s = .next (afterDeviceFault (.deviceIo (.register (regAddr s.cfg (bankOf g) .din)))
        { accessed 1 s with
          trace := s.trace ++ [.phase .run, .accessFailed (regAddr s.cfg (bankOf g) .din)] }))

/-- The spec's symmetry (spec/44_power_enable.md, the sentence that follows from R223, R224 and R225): on a line configured as an
output, enabling then querying answers 1 and disabling then querying answers 0. -/
def Obligations.EnableSymmetry : Prop :=
  ∀ (s t : State) (target idx : Field8) (g : Line) (op : Field8 → Field8 → Instr) (w : Word),
    (op, w) ∈ [(Instr.oena, 1#32), (Instr.odis, 0#32)] → powerLineOf s.sig target idx = some g → s.lc = .mapped →
    accessesGranted 3 s → lineBit s.oe g = false → exec (op target idx) s = .next t →
      ∃ u, exec (.oisena target idx) t = .next u ∧ u.out = some [0x00000000#32, w]

/-! ### Family 0x5: motion -/

/-- OSETUSTEP (spec/45_motion.md R241, R242): the two bits of the mode's code on the two mode lines, a read and a write of the
register of MS1 and then of MS2, every other bit as it was, and the shadow. A mode that is none of 1, 2, 4, 8 is refused. When
its access number k (from 0) is refused, the accesses before it stay done, so that MS1 is written and MS2 is not from k = 2 on,
none is made after it, the fault is at the register of the line accessed (spec/60_exceptions.md R301, R310), and the shadow is
unknown. That the clock moves on before each access is log 14. -/
def Obligations.Osetustep : Prop :=
  (∀ m : Field8, encode (.osetustep m) = { w0 := 0x50000000#32 ||| (m.zeroExtend 32 <<< 16), w1 := 0, w2 := 0 }) ∧
  (∀ (s : State) (m : Field8), m ∉ [1#8, 2#8, 4#8, 8#8] → exec (.osetustep m) s = .next (answered [0x01030000#32] s)) ∧
  ∀ (s : State) (m : Field8) (mode : UStepMode) (code : BitVec 2),
    (m, mode, code) ∈ [(1#8, .m1, s.cfg.ustepCode.c1), (2#8, .m2, s.cfg.ustepCode.c2), (4#8, .m4, s.cfg.ustepCode.c4),
      (8#8, .m8, s.cfg.ustepCode.c8)] → s.sig.ms1 ≠ s.sig.ms2 →
    let g1 := s.sig.ms1
    let g2 := s.sig.ms2
    let a1 := regAddr s.cfg (bankOf g1) .dout
    let a2 := regAddr s.cfg (bankOf g2) .dout
    let old := s.dout.get (bankOf g1)
    (s.lc = .mapped → accessesGranted 4 s → ∃ t first before second, exec (.osetustep m) s = .next t ∧
      (∀ h, lineBit t.dout h = if h = g1 then code.getLsbD 0 else if h = g2 then code.getLsbD 1 else lineBit s.dout h) ∧
      BitWritten old first g1 (code.getLsbD 0) ∧ before = (if bankOf g1 = bankOf g2 then first else s.dout.get (bankOf g2)) ∧
      BitWritten before second g2 (code.getLsbD 1) ∧
      t = answered [0x00000000#32]
        { accessed 4 s with
          dout := t.dout
          ustep := some mode
          trace := s.trace ++ [.phase .run, .read a1 old, .write a1 first, .read a2 before, .write a2 second] }) ∧
    (∀ k < 4, s.lc = .mapped → accessesGranted k s → ¬ accessesGranted (k + 1) s → ∃ t first before,
      exec (.osetustep m) s = .next t ∧
      (∀ h, lineBit t.dout h = if h = g1 ∧ 2 ≤ k then code.getLsbD 0 else lineBit s.dout h) ∧
      BitWritten old first g1 (code.getLsbD 0) ∧ before = (if bankOf g1 = bankOf g2 then first else s.dout.get (bankOf g2)) ∧
      t = afterDeviceFault (.deviceIo (.register (if k < 2 then a1 else a2)))
        { accessed (k + 1) s with
          dout := t.dout
          ustep := none
          trace := s.trace ++ ([.phase .run] ++ [.read a1 old, .write a1 first, .read a2 before].take k
            ++ [.accessFailed (if k < 2 then a1 else a2)]) }) ∧
    (s.lc ≠ .mapped → exec (.osetustep m) s = .next (afterDeviceFault (.resourceAbsent .gpio)
      { s with ustep := none, trace := s.trace ++ [.phase .run] }))

/-- OGETUSTEP (spec/45_motion.md R243): one read of the data-in register of MS1, then one of that of MS2, and the mode whose code
the two lines show then, whatever the shadow held. When the read number k (from 0) is refused, the fault is at that line's
register and the shadow stays (spec/60_exceptions.md R301, R310). That each granted read samples the pads anew, and a refused one
does not, is log 13; that the clock moves on before each access is log 14. -/
def Obligations.Ogetustep : Prop :=
  encode .ogetustep = { w0 := 0x51000000, w1 := 0, w2 := 0 } ∧
  ∀ s : State,
    let a1 := regAddr s.cfg (bankOf s.sig.ms1) .din
    let a2 := regAddr s.cfg (bankOf s.sig.ms2) .din
    let first := regValue (bankOf s.sig.ms1) .din s
    let second := regValue (bankOf s.sig.ms2) .din (tookPads s)
    (∀ (word : Word) (mode : UStepMode) (code : BitVec 2), s.cfg.valid = true →
      (word, mode, code) ∈ [(1#32, .m1, s.cfg.ustepCode.c1), (2#32, .m2, s.cfg.ustepCode.c2),
        (4#32, .m4, s.cfg.ustepCode.c4), (8#32, .m8, s.cfg.ustepCode.c8)] →
      s.lc = .mapped → accessesGranted 2 s → seenLevel s.sig.ms1 s = code.getLsbD 0 →
      seenLevel s.sig.ms2 (tookPads s) = code.getLsbD 1 →
        exec .ogetustep s = .next (answered [0x00000000#32, word]
          { accessed 2 s with
            ustep := some mode
            env := { (accessed 2 s).env with pads := s.env.pads.drop 2 }
            trace := s.trace ++ [.phase .run, .read a1 first, .read a2 second] })) ∧
    (s.lc ≠ .mapped →
      exec .ogetustep s = .next (afterDeviceFault (.resourceAbsent .gpio) { s with trace := s.trace ++ [.phase .run] })) ∧
    ∀ k < 2, s.lc = .mapped → accessesGranted k s → ¬ accessesGranted (k + 1) s →
      exec .ogetustep s = .next (afterDeviceFault (.deviceIo (.register (if k = 0 then a1 else a2)))
        { accessed (k + 1) s with
          env := { (accessed (k + 1) s).env with pads := s.env.pads.drop k }
          trace := s.trace ++ ([.phase .run] ++ [.read a1 first].take k ++ [.accessFailed (if k = 0 then a1 else a2)]) })

/-- The spec's round trip (spec/45_motion.md, the sentence that follows from R242 and R243): with both mode lines configured as
outputs, setting a mode then getting it answers that mode. -/
def Obligations.UstepRoundTrip : Prop :=
  ∀ (s t : State) (m : Field8), s.cfg.valid = true → s.sig = s.cfg.resolve → m ∈ [1#8, 2#8, 4#8, 8#8] → s.lc = .mapped →
    accessesGranted 6 s → lineBit s.oe s.sig.ms1 = false → lineBit s.oe s.sig.ms2 = false →
    exec (.osetustep m) s = .next t →
      ∃ u, exec .ogetustep t = .next u ∧ u.out = some [0x00000000#32, m.zeroExtend 32] ∧ u.ustep = t.ustep

/-- `HalfTicks(F)` is the least number of whole ticks not shorter than half a period (spec/45_motion.md R246). -/
def Obligations.HalfTicksLeast : Prop :=
  ∀ clkHz f h : Nat, 1 ≤ f → (halfTicks clkHz f ≤ h ↔ clkHz ≤ h * (2 * f))

/-- `BusyWait(h)` (spec/45_motion.md R247): the deadline is the first reading plus h, the wait ends at a reading at or past it,
and nothing but the clock, DEADLINE, the clock readings drawn and the history changes. That it ends at all is the progress
assumption (log 14). -/
def Obligations.BusyWaitBound : Prop :=
  ∀ (h : Nat) (s : State),
    (busyWait h s).deadline = nowValue s + h ∧ (busyWait h s).deadline ≤ (busyWait h s).clk ∧
    s.clk + h ≤ (busyWait h s).clk ∧
    busyWait h s =
      { s with
        clk := (busyWait h s).clk
        deadline := (busyWait h s).deadline
        env := { s.env with ticks := (busyWait h s).env.ticks }
        trace := s.trace ++ [.wait (nowValue s) (nowValue s + h) (busyWait h s).clk] }

/-- OSTEP1 (spec/45_motion.md R245): in every direction, with the accesses granted, it completes, and its actions are exactly
these: the elevation; unless the direction is NONE a read of the direction line's register and a write of it with the line at
its level; a read and a write of the step line's register with that line at 1; a wait of at least a half period; a read and a
write with it at 0; a second such wait; the yield. Nothing else of the register file changes. That the waits end, and that
the clock moves on before each access, is log 14. -/
def Obligations.Ostep1 : Prop :=
  (∀ (d r : Field8) (f : Word), encode (.ostep1 d r f) =
    { w0 := 0x52000000#32 ||| (d.zeroExtend 32 <<< 16) ||| (r.zeroExtend 32 <<< 8), w1 := f, w2 := 0 }) ∧
  ∀ (s : State) (d : Drive) (dir : Field8) (f : Word) (level : Option Bool),
    (dir, level) ∈ [(0#8, none), (1#8, some s.cfg.dirLevelExtend), (2#8, some (!s.cfg.dirLevelExtend))] → f ≠ 0 →
    s.lc = .mapped → accessesGranted (if level.isSome then 6 else 4) s →
      let gd := s.sig.dir.get d
      let g := s.sig.step.get d
      let ad := regAddr s.cfg (bankOf gd) .dout
      let a := regAddr s.cfg (bankOf g) .dout
      let h := halfTicks s.cfg.clkHz f.toNat
      ∃ t dirWord before high low t0 e0 t1 e1, exec (.ostep1 (BitVec.ofNat 8 d.val) dir f) s = .next t ∧
        (∀ x, lineBit t.dout x =
          if x = g then false
          else match level with
            | some v => if x = gd then v else lineBit s.dout x
            | none => lineBit s.dout x) ∧
        (∀ v, level = some v → BitWritten (s.dout.get (bankOf gd)) dirWord gd v) ∧
        before = (if level.isSome = true ∧ bankOf gd = bankOf g then dirWord else s.dout.get (bankOf g)) ∧
        BitWritten before high g true ∧ BitWritten high low g false ∧
        s.clk ≤ t0 ∧ t0 + h ≤ e0 ∧ e0 ≤ t1 ∧ t1 + h ≤ e1 ∧
        t = answered [0x00000000#32]
          { accessed (if level.isSome then 6 else 4) s with
            dout := t.dout
            prioFails := if prioGranted s then s.prioFails else s.prioFails + 1
            deadline := t1 + h
            clk := e1
            env :=
              { (accessed (if level.isSome then 6 else 4) s).env with
                prioGranted := s.env.prioGranted.tail
                ticks := t.env.ticks }
            trace := s.trace ++
              ([.phase .stPrio, .elevate (prioGranted s), .phase .stDir]
                ++ (if level.isSome then [.read ad (s.dout.get (bankOf gd)), .write ad dirWord] else [])
                ++ [.phase .stHigh, .read a before, .write a high, .phase .stWait1, .wait t0 (t0 + h) e0, .phase .stLow,
                  .read a high, .write a low, .phase .stWait2, .wait t1 (t1 + h) e1, .phase .stYield, .yielded]) }

/-- The argument checks of OSTEP1, in their order, the lifecycle check after the elevation (spec/45_motion.md R245), and a refused
access (spec/60_exceptions.md R310, R313): when its access number k (from 0) is refused, the accesses before it stay done and none
is made after it; the direction line is at its level if its two accesses were, the step line is high if the first two of its own
were, and the fault is at the register of the line accessed. That a refusal from the third access of the step line on is
reached at all, because the first wait ends, and that the clock moves on before each access, is log 14. -/
def Obligations.Ostep1Checks : Prop :=
  (∀ (s : State) (d dir : Field8) (f : Word),
    (2 < dir.toNat ∨ f = 0 → exec (.ostep1 d dir f) s = .next (answered [0x01030000#32] s)) ∧
    (dir.toNat ≤ 2 → f ≠ 0 → 6 ≤ d.toNat → ∃ t, exec (.ostep1 d dir f) s = .next t ∧
      t = afterHalt (.invalidAddress d.toNat) { s with seq := t.seq }) ∧
    (dir.toNat ≤ 2 → f ≠ 0 → d.toNat < 6 → s.lc ≠ .mapped → ∃ t, exec (.ostep1 d dir f) s = .next t ∧
      t = afterDeviceFault (.resourceAbsent .gpio)
        { s with
          prioFails := if prioGranted s then s.prioFails else s.prioFails + 1
          env := { s.env with prioGranted := s.env.prioGranted.tail }
          trace := t.trace } ∧
      t.trace.filter Event.isAccess = s.trace.filter Event.isAccess)) ∧
  ∀ (s : State) (d : Drive) (dir : Field8) (f : Word) (level : Option Bool) (k : Nat),
    (dir, level) ∈ [(0#8, none), (1#8, some s.cfg.dirLevelExtend), (2#8, some (!s.cfg.dirLevelExtend))] → f ≠ 0 →
    s.lc = .mapped → accessesGranted k s → ¬ accessesGranted (k + 1) s →
      let gd := s.sig.dir.get d
      let g := s.sig.step.get d
      let first := if level.isSome then 2 else 0
      k < first + 4 → ∃ t, exec (.ostep1 (BitVec.ofNat 8 d.val) dir f) s = .next t ∧
        (∀ x, lineBit t.dout x =
          if x = g ∧ first + 2 ≤ k then true
          else match level with
            | some v => if x = gd ∧ 2 ≤ k then v else lineBit s.dout x
            | none => lineBit s.dout x) ∧
        (k < first + 2 → t.deadline = s.deadline ∧ t.clk = (later (k + 1) s).clk ∧ t.env.ticks = s.env.ticks) ∧
        (t.trace.filter Event.isAccess).length = (s.trace.filter Event.isAccess).length + k ∧
        t = afterDeviceFault (.deviceIo (.register (regAddr s.cfg (bankOf (if k < first then gd else g)) .dout)))
          { accessed (k + 1) s with
            dout := t.dout
            prioFails := if prioGranted s then s.prioFails else s.prioFails + 1
            deadline := t.deadline
            clk := t.clk
            env :=
              { (accessed (k + 1) s).env with
                prioGranted := s.env.prioGranted.tail
                ticks := t.env.ticks }
            trace := t.trace }

/-- The spec's properties of the pulse (spec/45_motion.md R249, which follows from R245, R247 and R137), in every direction: the
direction line is written before the step line's register is written with that line at 1, and not again; between that write and
the write with it at 0 stands one wait of at least a half period; and when the read or the write of step 5 is refused, the line
stays high and nothing follows. That the waits end is log 14. -/
def Obligations.StepPulseActions : Prop :=
  ∀ (s : State) (d : Drive) (dir : Field8) (f : Word) (level : Option Bool),
    (dir, level) ∈ [(0#8, none), (1#8, some s.cfg.dirLevelExtend), (2#8, some (!s.cfg.dirLevelExtend))] → f ≠ 0 →
    s.lc = .mapped →
      let gd := s.sig.dir.get d
      let g := s.sig.step.get d
      let ad := regAddr s.cfg (bankOf gd) .dout
      let a := regAddr s.cfg (bankOf g) .dout
      let h := halfTicks s.cfg.clkHz f.toNat
      let first := if level.isSome then 2 else 0
      accessesGranted (first + 2) s → ∃ t dirWord before high t0 e0,
        exec (.ostep1 (BitVec.ofNat 8 d.val) dir f) s = .next t ∧
        (∀ v, level = some v → BitWritten (s.dout.get (bankOf gd)) dirWord gd v) ∧
        before = (if level.isSome = true ∧ bankOf gd = bankOf g then dirWord else s.dout.get (bankOf g)) ∧
        BitWritten before high g true ∧ s.clk ≤ t0 ∧ t0 + h ≤ e0 ∧ e0 ≤ t.clk ∧
        ∃ rest, t.trace = s.trace ++
            ([.phase .stPrio, .elevate (prioGranted s), .phase .stDir]
              ++ (if level.isSome then [.read ad (s.dout.get (bankOf gd)), .write ad dirWord] else [])
              ++ [.phase .stHigh, .read a before, .write a high, .phase .stWait1, .wait t0 (t0 + h) e0, .phase .stLow]
              ++ rest) ∧
          (accessesGranted (first + 4) s → ∃ low t1, BitWritten high low g false ∧ e0 ≤ t1 ∧ t1 + h ≤ t.clk ∧
            rest = [.read a high, .write a low, .phase .stWait2, .wait t1 (t1 + h) t.clk, .phase .stYield, .yielded]) ∧
          (¬ accessesGranted (first + 4) s → t.out = some [0x02000000#32] ∧ t.fault.cause.code = 4 ∧ t.prio = .normal ∧
            lineBit t.dout g = true ∧ t.deadline = t0 + h ∧
            rest = (if accessesGranted (first + 3) s then [.read a high] else []) ++ [.accessFailed a])

/-- Elevation is best-effort (spec/45_motion.md R248): the answer to an elevation request is counted and logged, and changes
nothing else of what OSTEP1 or OMEASURE does, none of its visible actions either. -/
def Obligations.ElevationChangesNothing : Prop :=
  ∀ (s t u : State) (i : Instr) (q : Script Bool),
    ((∃ d r f, i = .ostep1 d r f) ∨ ∃ d c n x, i = .omeasure d c n x) →
    exec i s = .next t → exec i { s with env := { s.env with prioGranted := q } } = .next u →
      u = { t with prioFails := u.prioFails, trace := u.trace, env := { t.env with prioGranted := u.env.prioGranted } } ∧
      u.trace.map Event.withoutGrant = t.trace.map Event.withoutGrant

/-- OPHRESET (spec/45_motion.md R250): a read and a write of the shared line's register with that line at 0, one wait of at least a
half period of PHASE_RESET_HZ, a read and a write with it at 1, every other bit as it was. A refused access is a device fault at
that register (spec/60_exceptions.md R301, R310): before the wait nothing is written, after it the line stays at 0. That the wait
ends, and that the clock moves on before each access, is log 14. -/
def Obligations.Ophreset : Prop :=
  encode .ophreset = { w0 := 0x53000000, w1 := 0, w2 := 0 } ∧
  ∀ s : State,
    let g := s.sig.phaseReset
    let a := regAddr s.cfg (bankOf g) .dout
    let old := s.dout.get (bankOf g)
    let h := halfTicks s.cfg.clkHz s.cfg.phaseResetHz
    (s.lc = .mapped → accessesGranted 4 s → ∃ t t0 e0 low high, exec .ophreset s = .next t ∧
      (∀ x, lineBit t.dout x = if x = g then true else lineBit s.dout x) ∧
      BitWritten old low g false ∧ BitWritten low high g true ∧ s.clk ≤ t0 ∧ t0 + h ≤ e0 ∧ e0 ≤ t.clk ∧
      t = answered [0x00000000#32]
        { accessed 4 s with
          dout := t.dout
          deadline := t0 + h
          clk := t.clk
          env := { (accessed 4 s).env with ticks := t.env.ticks }
          trace := s.trace ++
            [.phase .prLow, .read a old, .write a low, .phase .prWait, .wait t0 (t0 + h) e0, .phase .prHigh, .read a low,
              .write a high] }) ∧
    (∀ k < 2, s.lc = .mapped → accessesGranted k s → ¬ accessesGranted (k + 1) s →
      exec .ophreset s = .next (afterDeviceFault (.deviceIo (.register a))
        { accessed (k + 1) s with
          trace := s.trace ++ ([.phase .prLow] ++ [.read a old].take k ++ [.accessFailed a]) })) ∧
    (∀ k < 2, s.lc = .mapped → accessesGranted (2 + k) s → ¬ accessesGranted (2 + k + 1) s → ∃ t t0 e0 low,
      exec .ophreset s = .next t ∧ (∀ x, lineBit t.dout x = if x = g then false else lineBit s.dout x) ∧
      BitWritten old low g false ∧ s.clk ≤ t0 ∧ t0 + h ≤ e0 ∧ e0 ≤ t.clk ∧
      t = afterDeviceFault (.deviceIo (.register a))
        { accessed (2 + k + 1) s with
          dout := t.dout
          deadline := t0 + h
          clk := t.clk
          env := { (accessed (2 + k + 1) s).env with ticks := t.env.ticks }
          trace := s.trace ++
            ([.phase .prLow, .read a old, .write a low, .phase .prWait, .wait t0 (t0 + h) e0, .phase .prHigh]
              ++ [.read a low].take k ++ [.accessFailed a]) }) ∧
    (s.lc ≠ .mapped →
      exec .ophreset s = .next (afterDeviceFault (.resourceAbsent .gpio) { s with trace := s.trace ++ [.phase .prLow] }))

/-! ### Family 0x6: the measurement -/

/-- OMEASURE in a run that meets no failing answer (spec/46_measurement.md R271, R273, R279): it completes, the mux lines select
the device and nothing else of the register file changes; the samples are the decoded answers of the N transfers after the first
three, in the first N entries of the buffer, whose other entries stay; the statistics are theirs; and the response is the
eighteen value words of spec/30_encoding.md R110: the flags, the counts, the extremes, the two sums, and the mean, the deviation
and the extremes in volts. The rounding of the four voltages is `RoundBinary64Nearest` (log 18); that the sums fit their 64 bits
is spec/46_measurement.md R272's. That the clock moves on before every access and transfer and by the end of every settle delay is
logs 14 and 17. -/
def Obligations.Omeasure : Prop :=
  (∀ (d c : Field8) (n x : Word), encode (.omeasure d c n x) =
    { w0 := 0x60000000#32 ||| (c.zeroExtend 32 <<< 16) ||| (d.zeroExtend 32 <<< 8), w1 := n, w2 := x }) ∧
  ∀ (s : State) (d : AdcDev) (c : AdcChan) (n x : Word), s.lc = .mapped → s.spi.cfg = .configured → n ≠ 0 →
    n.toNat ≤ s.cfg.nmax → s.sig.adcSel1 ≠ s.sig.adcSel2 → accessesGranted 4 s → xfersGranted (n.toNat + 3) s →
      ∃ t st, exec (.omeasure (BitVec.ofNat 8 d.val) (BitVec.ofNat 8 c.val) n x) s = .next t ∧
        (∀ h, lineBit t.dout h =
          if h = s.sig.adcSel1 then (s.cfg.adcMuxCode.get d).1
          else if h = s.sig.adcSel2 then (s.cfg.adcMuxCode.get d).2 else lineBit s.dout h) ∧
        st = measuredStats s.cfg
          { s.st with n := n.toNat, dev := d, chan := c, buf := measuredSamples n.toNat s ++ s.st.buf.drop n.toNat } ∧
        (measuredSamples n.toNat s).length = n.toNat ∧ st.buf = measuredSamples n.toNat s ++ s.st.buf.drop n.toNat ∧
        (s.cfg.nmax ≤ 65535 → st.sumNum < 2 ^ 64 ∧ st.sumsqNum < 2 ^ 64) ∧
        let pair : BitVec 64 → List Word := fun w => [w.extractLsb' 32 32, w.extractLsb' 0 32]
        let fs := s.cfg.fullScaleUv
        let volt := s.cfg.adcCodeSpan * 1000000
        let total := st.den * n.toNat
        t = answered
          ([0x00000000#32, (if st.atHome then 1 else 0) + (if st.measHigh then 2 else 0) + (if st.undetermined then 4 else 0), n,
              BitVec.ofNat 32 st.used, BitVec.ofNat 32 st.min.toNat, BitVec.ofNat 32 st.max.toNat, BitVec.ofNat 32 st.den]
            ++ pair (BitVec.ofNat 64 st.sumNum) ++ pair (BitVec.ofNat 64 st.sumsqNum)
            ++ pair (roundBinary64 (st.sumNum * fs) (total * volt))
            ++ pair (roundSqrtBinary64 ((st.sumsqNum * total - st.sumNum * st.sumNum) * (fs * fs))
              (total * volt * (total * volt)))
            ++ pair (roundBinary64 (st.min.toNat * fs) volt) ++ pair (roundBinary64 (st.max.toNat * fs) volt))
          { later (2 * n.toNat + 8) s with
            dout := t.dout
            spi :=
              { s.spi with
                tx := s.cfg.cmdSelect.get c
                rx := (s.env.rx.take Config.freeRx (n.toNat + 3)).getLastD s.spi.rx }
            st := st
            prioFails := if prioGranted s then s.prioFails else s.prioFails + 1
            env :=
              { (later (2 * n.toNat + 8) s).env with
                accessOk := s.env.accessOk.drop 4
                xferOk := s.env.xferOk.drop (n.toNat + 3)
                rx := s.env.rx.drop (n.toNat + 3)
                prioGranted := s.env.prioGranted.tail }
            trace := t.trace }

/-- The argument checks of OMEASURE, in their order (spec/46_measurement.md R272), and its faults (R280; spec/60_exceptions.md R310,
R313), each with all it leaves: the banks not mapped; the mux access number k refused, whatever the bus; the bus unconfigured,
after the mux lines were written; the transfer number k refused, after k words went out and the samples among their answers were
stored. That N, the device and the channel stand in ST from the start is log 21; that the clock moves on before every access and
transfer and by the end of every settle delay is logs 14 and 17. -/
def Obligations.OmeasureChecks : Prop :=
  (∀ (s : State) (d c : Field8) (n x : Word),
    (n = 0 ∨ s.cfg.nmax < n.toNat → exec (.omeasure d c n x) s = .next (answered [0x01030000#32] s)) ∧
    (n ≠ 0 → n.toNat ≤ s.cfg.nmax → 2 ≤ d.toNat → ∃ t, exec (.omeasure d c n x) s = .next t ∧
      t = afterHalt (.invalidAddress d.toNat) { s with seq := t.seq }) ∧
    (n ≠ 0 → n.toNat ≤ s.cfg.nmax → d.toNat < 2 → 12 ≤ c.toNat → ∃ t, exec (.omeasure d c n x) s = .next t ∧
      t = afterHalt (.invalidAddress c.toNat) { s with seq := t.seq })) ∧
  ∀ (s : State) (d : AdcDev) (c : AdcChan) (n x : Word), n ≠ 0 → n.toNat ≤ s.cfg.nmax →
    let op := Instr.omeasure (BitVec.ofNat 8 d.val) (BitVec.ofNat 8 c.val) n x
    let g1 := s.sig.adcSel1
    let g2 := s.sig.adcSel2
    let code := s.cfg.adcMuxCode.get d
    let begun : State :=
      { s with
        st := { s.st with n := n.toNat, dev := d, chan := c }
        prioFails := if prioGranted s then s.prioFails else s.prioFails + 1
        env := { s.env with prioGranted := s.env.prioGranted.tail } }
    (s.lc ≠ .mapped → ∃ t, exec op s = .next t ∧
      t = afterDeviceFault (.resourceAbsent .gpio)
        { begun with trace := s.trace ++ [.phase .msPrio, .elevate (prioGranted s), .phase .msMux] }) ∧
    (∀ k < 4, s.lc = .mapped → accessesGranted k s → ¬ accessesGranted (k + 1) s → ∃ t, exec op s = .next t ∧
      (∀ h, lineBit t.dout h = if h = g1 ∧ 2 ≤ k then code.1 else lineBit s.dout h) ∧
      t = afterDeviceFault (.deviceIo (.register (regAddr s.cfg (bankOf (if k < 2 then g1 else g2)) .dout)))
        { accessed (k + 1) begun with
          dout := t.dout
          trace := t.trace }) ∧
    (s.lc = .mapped → s.spi.cfg ≠ .configured → accessesGranted 4 s → ∃ t, exec op s = .next t ∧
      (∀ h, lineBit t.dout h = if h = g2 then code.2 else if h = g1 then code.1 else lineBit s.dout h) ∧
      t = afterDeviceFault (.resourceAbsent .spi)
        { accessed 4 begun with
          dout := t.dout
          trace := t.trace }) ∧
    ∀ k < n.toNat + 3, s.lc = .mapped → s.spi.cfg = .configured → accessesGranted 4 s → xfersGranted k s →
      ¬ xfersGranted (k + 1) s → ∃ t, exec op s = .next t ∧
        (∀ h, lineBit t.dout h = if h = g2 then code.2 else if h = g1 then code.1 else lineBit s.dout h) ∧
        t = afterDeviceFault (.deviceIo .spi)
          { later (4 + (k + 1) + (k - 2)) begun with
            dout := t.dout
            spi :=
              { s.spi with
                tx := ([s.cfg.cmdInit, s.cfg.cmdConfig][k]?).getD (s.cfg.cmdSelect.get c)
                rx := (s.env.rx.take Config.freeRx k).getLastD s.spi.rx }
            st :=
              { begun.st with
                buf := ((s.env.rx.take Config.freeRx k).drop 3).map (decodeSample s.cfg) ++ s.st.buf.drop (k - 3) }
            env :=
              { (later (4 + (k + 1) + (k - 2)) begun).env with
                accessOk := s.env.accessOk.drop 4, xferOk := s.env.xferOk.drop (k + 1), rx := s.env.rx.drop k }
            trace := t.trace }

/-- The accesses and transfers of a run that meets no failing answer (spec/46_measurement.md R273 and its properties of a
fault-free run): four register accesses, then the words CMD_INIT, CMD_CONFIG and N + 1 times the select word of the channel, and
no other. -/
def Obligations.MeasurementWordSequence : Prop :=
  ∀ (s : State) (d : AdcDev) (c : AdcChan) (n x : Word), s.lc = .mapped → s.spi.cfg = .configured → n ≠ 0 →
    n.toNat ≤ s.cfg.nmax → accessesGranted 4 s → xfersGranted (n.toNat + 3) s →
      ∃ t evs, exec (.omeasure (BitVec.ofNat 8 d.val) (BitVec.ofNat 8 c.val) n x) s = .next t ∧ t.trace = s.trace ++ evs ∧
        (evs.filter Event.isAccess).length = 4 ∧
        (evs.filter fun e => e.isAccess || e.isXfer).drop 4 =
          List.zipWith (fun tx rx => .xfer tx rx)
            (s.cfg.cmdInit :: s.cfg.cmdConfig :: List.replicate (n.toNat + 1) (s.cfg.cmdSelect.get c))
            (s.env.rx.take Config.freeRx (n.toNat + 3))

/-- `FirstPass()` and `HomeTest()` (spec/46_measurement.md R274, R275) over the N samples at the head of the buffer, at least one:
the sums, the extremes, and a strict comparison of the spread with 1.0 V in exact integers. -/
def Obligations.FirstPassAndHomeTest : Prop :=
  ∀ (c : Config) (st : Stats) (xs : List Code), xs = st.buf.take st.n → xs ≠ [] → ∃ r, homeTest c (firstPass st) = r ∧
    r.sumNum = (xs.map fun x => x.toNat).sum ∧ r.sumsqNum = (xs.map fun x => x.toNat * x.toNat).sum ∧
    r.min ∈ xs ∧ r.max ∈ xs ∧ (∀ x ∈ xs, r.min.toNat ≤ x.toNat ∧ x.toNat ≤ r.max.toNat) ∧
    r.used = st.n ∧ r.den = 1 ∧ r.measHigh = false ∧ r.undetermined = false ∧
    (r.atHome = true ↔ 1000000 * c.adcCodeSpan < (r.max.toNat - r.min.toNat) * c.fullScaleUv) ∧
    r.n = st.n ∧ r.dev = st.dev ∧ r.chan = st.chan ∧ r.buf = st.buf ∧ r.nHi = st.nHi ∧ r.nLo = st.nLo

/-- `Vote()` and `Refilter()` (spec/46_measurement.md R276, R277) on the N samples at the head of the buffer: the counts, the
majority, a tie to the low side, and the sums over the majority side times N over its size, with the extremes of that side, not
rescaled. That the majority side is never empty, and at least half of the samples, is the inference of R278. -/
def Obligations.VoteAndRefilter : Prop :=
  ∀ (c : Config) (st : Stats) (xs : List Code), xs = st.buf.take st.n → xs ≠ [] → xs.length = st.n →
    ∃ r, refilter c (vote c st) = r ∧
    r.nHi = (xs.filter fun x => c.threshCode < x.toNat).length ∧
    r.nLo = (xs.filter fun x => x.toNat ≤ c.threshCode).length ∧ r.nHi + r.nLo = st.n ∧
    (r.measHigh = true ↔ r.nLo < r.nHi) ∧
    ∀ side, side = (xs.filter fun x => if r.measHigh then c.threshCode < x.toNat else x.toNat ≤ c.threshCode) →
      0 < side.length ∧ r.used = side.length ∧ r.den = side.length ∧ st.n ≤ 2 * side.length ∧
      r.sumNum = (side.map fun x => x.toNat).sum * st.n ∧ r.sumsqNum = (side.map fun x => x.toNat * x.toNat).sum * st.n ∧
      r.min ∈ side ∧ r.max ∈ side ∧ (∀ x ∈ side, r.min.toNat ≤ x.toNat ∧ x.toNat ≤ r.max.toNat) ∧
      r.atHome = st.atHome ∧ r.undetermined = st.undetermined

/-- The guarded division exists (spec/46_measurement.md R278), and no vote over at least one sample reaches it (the inference
the spec marks there). -/
def Obligations.GuardedDivision : Prop :=
  (∀ (c : Config) (st : Stats), sideOf c.threshCode st.measHigh (st.buf.take st.n) = [] →
    refilter c st = { st with undetermined := true, atHome := false }) ∧
  ∀ (c : Config) (st : Stats), st.buf.take st.n ≠ [] →
    sideOf c.threshCode (vote c st).measHigh ((vote c st).buf.take (vote c st).n) ≠ []

/-- The spec's properties of the statistics (spec/46_measurement.md R280, which follow from R274, R277 and R279), in both
branches, over the N samples at the head of the buffer: min ≤ mean ≤ max and a variance that is not negative, in exact
rationals; and when not at home every sample is used. -/
def Obligations.StatisticsBounds : Prop :=
  ∀ (c : Config) (st : Stats), 0 < st.n → st.n ≤ st.buf.length → ∃ r, measuredStats c st = r ∧ 0 < r.den * r.n ∧
    r.min.toNat * (r.den * r.n) ≤ r.sumNum ∧ r.sumNum ≤ r.max.toNat * (r.den * r.n) ∧
    r.sumNum * r.sumNum ≤ r.sumsqNum * (r.den * r.n) ∧
    (r.atHome = false → r.used = st.n ∧ r.den = 1 ∧ r.measHigh = false) ∧ r.undetermined = false

/-! ### The boundary -/

/-- The frames each pseudo-operation issues for operands in range, and what its caller is told (spec/30_encoding.md R119 to R124):
drives, ports and devices one-based outside and zero-based inside, ALL and channel 0 in ascending order, the sign of a count its
direction, a named quantity one measurement on its pair; frames are issued one by one, each answered OK gives its value words,
and the first that is not ends the pseudo-operation with rejected or device fault, no answer being a device fault; the caller of
a named measurement sees the words from the eleventh on. That ALL and channel 0 stop at such a frame too is log 29; that a report
of rejected carries the reason code and that the values of several frames are reported in the order of the frames is log 26. -/
def Obligations.BoundaryFrames : Prop :=
  (∀ (c : Config) (d : Drive) (count : Int) (freq : Word),
    expand c (.step (d.val + 1 : Nat) count freq) =
      .ok (List.replicate count.natAbs (.ostep1 (BitVec.ofNat 8 d.val) (if 0 < count then 1#8 else 2#8) freq))) ∧
  (∀ (c : Config) (u : Usb),
    expand c (.usbEna (.port (u.val + 1 : Nat))) = .ok [.oena 3 (BitVec.ofNat 8 u.val)] ∧
    expand c (.usbDis (.port (u.val + 1 : Nat))) = .ok [.odis 3 (BitVec.ofNat 8 u.val)] ∧
    expand c (.usbQ (u.val + 1 : Nat)) = .ok [.oisena 3 (BitVec.ofNat 8 u.val)]) ∧
  (∀ c : Config,
    expand c (.usbEna .all) = .ok [.oena 3 0, .oena 3 1, .oena 3 2, .oena 3 3, .oena 3 4, .oena 3 5, .oena 3 6] ∧
    expand c (.usbDis .all) = .ok [.odis 3 0, .odis 3 1, .odis 3 2, .odis 3 3, .odis 3 4, .odis 3 5, .odis 3 6]) ∧
  (∀ (c : Config) (d : Drive),
    expand c (.drvEna (d.val + 1 : Nat)) = .ok [.oena 7 (BitVec.ofNat 8 d.val)] ∧
    expand c (.drvDis (d.val + 1 : Nat)) = .ok [.odis 7 (BitVec.ofNat 8 d.val)] ∧
    expand c (.drvQ (d.val + 1 : Nat)) = .ok [.oisena 7 (BitVec.ofNat 8 d.val)]) ∧
  (∀ (c : Config) (t : PlainTarget) (code : Field8),
    (t, code) ∈ [(PlainTarget.board, 0#8), (.encoders, 1#8), (.sensors, 2#8), (.drivebank, 4#8), (.hicurrent, 5#8), (.sr, 6#8)] →
      expand c (.ena t) = .ok [.oena code 0] ∧ expand c (.dis t) = .ok [.odis code 0] ∧
        expand c (.q t) = .ok [.oisena code 0]) ∧
  (∀ (c : Config) (m : Field8), expand c (.setUstep m) = .ok [.osetustep m] ∧ expand c .getUstep = .ok [.ogetustep] ∧
    expand c .resetPhase = .ok [.ophreset]) ∧
  (∀ (c : Config) (d : AdcDev) (n x : Word),
    (expand c (.meas (d.val + 1 : Nat) 0 n x) = .ok ((List.range 8).map fun k =>
      .omeasure (BitVec.ofNat 8 d.val) (BitVec.ofNat 8 k) n x)) ∧
    ∀ ch : AdcChan, ch ≠ 0 → expand c (.meas (d.val + 1 : Nat) (ch.val : Int) n x) =
      .ok [.omeasure (BitVec.ofNat 8 d.val) (BitVec.ofNat 8 ch.val) n x]) ∧
  (∀ (c : Config) (q : Quantity) (dc : AdcDev × AdcChan) (n x : Word),
    ((q, dc) ∈ [(Quantity.tempOnboard, c.measChan.tempOnboard), (.tempExternal, c.measChan.tempExternal),
        (.refLow, c.measChan.refLow), (.refMid, c.measChan.refMid), (.refHigh, c.measChan.refHigh)] ∨
      ∃ j, q = .encoder j ∧ c.measChan.encoder[j]? = some dc) →
        expand c (.measNamed q n x) = .ok [.omeasure (BitVec.ofNat 8 dc.1.val) (BitVec.ofNat 8 dc.2.val) n x]) ∧
  (∀ c : Config, c.valid = true → c.measChan.refLow.2 = 9 ∧ c.measChan.refMid.2 = 10 ∧ c.measChan.refHigh.2 = 11) ∧
  (∀ (is : List Instr) (s t : State) (values : List (List Word)), AnsweredOk is s values t → issue is s = (.result values, t)) ∧
  (∀ (before rest : List Instr) (i : Instr) (s t : State) (values : List (List Word)), AnsweredOk before s values t →
    (∀ (u : State) (reason : Field8), step { t with host := .frame (encode i) :: t.host } = .next u →
      u.out = some [0x01000000#32 ||| (reason.zeroExtend 32 <<< 16)] → issue (before ++ i :: rest) s = (.rejected reason, u)) ∧
    (∀ u : State, step { t with host := .frame (encode i) :: t.host } = .next u →
      u.out = some [0x02000000#32] ∨ u.out = none → issue (before ++ i :: rest) s = (.deviceFault, u)) ∧
    (step { t with host := .frame (encode i) :: t.host } = .fault .halted →
      issue (before ++ i :: rest) s = (.deviceFault, t))) ∧
  (∀ (p : Pseudo) (s : State) (is : List Instr), expand s.cfg p = .ok is → (∀ q n x, p ≠ .measNamed q n x) →
    runPseudo p s = issue is s) ∧
  ∀ (q : Quantity) (n x : Word) (s : State) (is : List Instr), expand s.cfg (.measNamed q n x) = .ok is →
    runPseudo (.measNamed q n x) s =
      (match (issue is s).1 with
        | .result values => .result (values.map fun ws => ws.drop 10)
        | .rejected reason => .rejected reason
        | .deviceFault => .deviceFault, (issue is s).2)

/-- The boundary rejects an index out of range with BAD_INDEX, which only it gives, before any frame is issued (spec/30_encoding.md
R118, R109; spec/60_exceptions.md R308), and no frame it issues carries an index that would halt the block
(spec/60_exceptions.md R305). That a channel and an encoder number out of range are BAD_INDEX is log 26. -/
def Obligations.BoundaryNeverHalts : Prop :=
  (∀ (c : Config) (drive1 count : Int) (freq : Word), (drive1 < 1 ∨ 6 < drive1) →
    expand c (.step drive1 count freq) = .error .badIndex ∧ expand c (.drvEna drive1) = .error .badIndex ∧
      expand c (.drvDis drive1) = .error .badIndex ∧ expand c (.drvQ drive1) = .error .badIndex) ∧
  (∀ (c : Config) (usb1 : Int), (usb1 < 1 ∨ 7 < usb1) →
    expand c (.usbEna (.port usb1)) = .error .badIndex ∧ expand c (.usbDis (.port usb1)) = .error .badIndex ∧
      expand c (.usbQ usb1) = .error .badIndex) ∧
  (∀ (c : Config) (dev1 ch : Int) (n x : Word), (dev1 < 1 ∨ 2 < dev1 ∨ ch < 0 ∨ 11 < ch) →
    expand c (.meas dev1 ch n x) = .error .badIndex) ∧
  (∀ (c : Config) (j : Nat) (n x : Word), c.measChan.encoder.length ≤ j →
    expand c (.measNamed (.encoder j) n x) = .error .badIndex) ∧
  (∀ (p : Pseudo) (s : State) (reason : Reason), expand s.cfg p = .error reason →
    reason = .badIndex ∧ (Response.rejected reason).frame = [0x01020000#32] ∧ runPseudo p s = (.rejected 2, s)) ∧
  ∀ (p : Pseudo) (s t : State) (is : List Instr) (i : Instr), expand s.cfg p = .ok is → i ∈ is → s.fault.halted = false →
    WellFormed i = true ∧ (exec i s = .next t → t.fault.halted = false)

end
end

