-- ==== Sys2Proof/Laws/Bits.lean ====
section
/-! SUPPORT. What the bank demultiplexer, the bit mask and the read-modify-write do to the bits of the register file. -/

namespace Sys2Proof.Machine

theorem bitOf_lt (g : Line) : bitOf g < 32 := Nat.mod_lt _ (by decide)

/-- A line is its bank and its bit (spec/10_state.md R26). -/
theorem line_ext_iff {g h : Line} : g = h ↔ bankOf g = bankOf h ∧ bitOf g = bitOf h := by
  simp only [Fin.ext_iff, bankOf, bitOf]
  omega

theorem one_getLsbD (i : Nat) : (1#32).getLsbD i = decide (i = 0) := by
  simp [BitVec.getLsbD_one]

/-- The mask has exactly the line's bit set (spec/10_state.md R27). -/
theorem maskOf_getLsbD (g : Line) {j : Nat} (hj : j < 32) : (maskOf g).getLsbD j = decide (j = bitOf g) := by
  have hg := bitOf_lt g
  simp only [maskOf, BitVec.getLsbD_shiftLeft, one_getLsbD, hj, decide_true, Bool.true_and, ← decide_not, ← Bool.decide_and]
  exact decide_eq_decide.mpr (by omega)

/-- Testing a word against a line's mask reads the line's bit. -/
theorem and_maskOf_ne_zero (v : Word) (g : Line) : (v &&& maskOf g != 0) = v.getLsbD (bitOf g) := by
  cases hb : v.getLsbD (bitOf g)
  · have h0 : v &&& maskOf g = 0#32 := by
      apply BitVec.eq_of_getLsbD_eq
      intro j hj
      rw [BitVec.getLsbD_and, maskOf_getLsbD g hj]
      by_cases h : j = bitOf g <;> simp [h, hb]
    simp [h0]
  · have h1 : v &&& maskOf g ≠ 0#32 := by
      intro h0
      have := congrArg (fun x => x.getLsbD (bitOf g)) h0
      simp [maskOf_getLsbD g (bitOf_lt g), hb] at this
    simpa using h1

/-- The read-modify-write changes the target bit and no other (spec/40_gpio_register_access.md R136). -/
theorem withBit_getLsbD (old : Word) (g : Line) (v : Bool) {j : Nat} (hj : j < 32) :
    (withBit old (maskOf g) v).getLsbD j = if j = bitOf g then v else old.getLsbD j := by
  have hm := maskOf_getLsbD g hj
  cases v
  · simp only [withBit, Bool.false_eq_true, if_false, BitVec.getLsbD_and, BitVec.getLsbD_not, hm, hj, decide_true]
    split <;> simp [*]
  · simp only [withBit, if_true, BitVec.getLsbD_or, hm]
    split <;> simp [*]

/-- Reading a bank after storing a bank. -/
theorem get_set_bank (r : Vector Word 6) (k h : BankIdx) (v : Word) :
    (r.set k.val v k.isLt).get h = if h = k then v else r.get h := by
  simp only [Vector.get_eq_getElem, Vector.getElem_set, Fin.ext_iff, eq_comm]

/-- After a read-modify-write of a line's bit, that line's bit is the new one and every other line's is as before
(spec/40_gpio_register_access.md R138). -/
theorem lineBit_set_withBit (r : Vector Word 6) (g h : Line) (v : Bool) :
    lineBit (r.set (bankOf g).val (withBit (r.get (bankOf g)) (maskOf g) v) (bankOf g).isLt) h
      = if h = g then v else lineBit r h := by
  unfold lineBit
  rw [get_set_bank]
  by_cases hk : bankOf h = bankOf g
  · rw [if_pos hk, withBit_getLsbD _ _ _ (bitOf_lt h), hk]
    simp only [line_ext_iff, hk, true_and]
  · rw [if_neg hk, if_neg]
    rw [line_ext_iff]
    exact fun e => hk e.1

/-- Two register files with the same bit for every line are equal. -/
theorem eq_of_lineBit {r q : Vector Word 6} (h : ∀ g : Line, lineBit r g = lineBit q g) : r = q := by
  apply Vector.ext
  intro k hk
  apply BitVec.eq_of_getLsbD_eq
  intro j hj
  have := h ⟨32 * k + j, by omega⟩
  have e1 : bankOf ⟨32 * k + j, by omega⟩ = ⟨k, hk⟩ := by simp only [bankOf, Fin.ext_iff]; omega
  have e2 : bitOf ⟨32 * k + j, by omega⟩ = j := by simp only [bitOf]; omega
  simpa [lineBit, e1, e2, Vector.get_eq_getElem] using this

/-- Data-in, bit by bit (spec/10_state.md R25). -/
theorem dinValue_getLsbD (oe dout pads : Word) {j : Nat} (hj : j < 32) :
    (dinValue oe dout pads).getLsbD j = if oe.getLsbD j then pads.getLsbD j else dout.getLsbD j := by
  cases h : oe.getLsbD j <;>
    simp only [dinValue, BitVec.getLsbD_or, BitVec.getLsbD_and, BitVec.getLsbD_not, h, hj, decide_true, if_true, if_false,
      Bool.not_true, Bool.not_false, Bool.and_true, Bool.and_false, Bool.or_false, Bool.false_or, Bool.false_eq_true]

end Sys2Proof.Machine
end

