-- ==== Sys2Proof/Laws/Frames.lean ====
section
/-! SUPPORT. The fields of a frame, of a frame made from its fields, and of a frame put together again. -/

namespace Sys2Proof

/-- The bits of `W0` (spec/30_encoding.md R101). -/
theorem ofFields_w0_bit (op a b : Field8) (w1 w2 : Word) (j : Nat) :
    (Frame.ofFields op a b w1 w2).w0.getLsbD j =
      if j < 8 then false else if j - 8 < 8 then b.getLsbD (j - 8)
      else if j - 8 - 8 < 8 then a.getLsbD (j - 8 - 8) else op.getLsbD (j - 8 - 8 - 8) := by
  change ((op ++ a ++ b ++ (0#8) : BitVec (8 + 8 + 8 + 8))).getLsbD j = _
  rw [BitVec.getLsbD_append, BitVec.getLsbD_append, BitVec.getLsbD_append]
  split <;> simp

/-- `W0` of a frame made from its fields (spec/30_encoding.md R101). -/
theorem ofFields_w0 (op a b : Field8) (w1 w2 : Word) : (Frame.ofFields op a b w1 w2).w0 =
    (op.zeroExtend 32 <<< 24) ||| (a.zeroExtend 32 <<< 16) ||| (b.zeroExtend 32 <<< 8) := by
  apply BitVec.eq_of_getLsbD_eq
  intro j hj
  rw [ofFields_w0_bit]
  simp only [BitVec.getLsbD_or, BitVec.getLsbD_shiftLeft, BitVec.truncate_eq_setWidth, BitVec.getLsbD_setWidth]
  grind

/-- A frame made from its fields, word by word. -/
theorem ofFields_eq (op a b : Field8) (w1 w2 : Word) : Frame.ofFields op a b w1 w2 =
    { w0 := (op.zeroExtend 32 <<< 24) ||| (a.zeroExtend 32 <<< 16) ||| (b.zeroExtend 32 <<< 8), w1 := w1, w2 := w2 } := by
  rw [← ofFields_w0 op a b w1 w2]
  rfl

@[simp] theorem ofFields_op (op a b : Field8) (w1 w2 : Word) : (Frame.ofFields op a b w1 w2).op = op := by
  apply BitVec.eq_of_getLsbD_eq
  intro j hj
  rw [Frame.op, BitVec.getLsbD_extractLsb', ofFields_w0_bit]
  grind

@[simp] theorem ofFields_a (op a b : Field8) (w1 w2 : Word) : (Frame.ofFields op a b w1 w2).a = a := by
  apply BitVec.eq_of_getLsbD_eq
  intro j hj
  rw [Frame.a, BitVec.getLsbD_extractLsb', ofFields_w0_bit]
  grind

@[simp] theorem ofFields_b (op a b : Field8) (w1 w2 : Word) : (Frame.ofFields op a b w1 w2).b = b := by
  apply BitVec.eq_of_getLsbD_eq
  intro j hj
  rw [Frame.b, BitVec.getLsbD_extractLsb', ofFields_w0_bit]
  grind

@[simp] theorem ofFields_c (op a b : Field8) (w1 w2 : Word) : (Frame.ofFields op a b w1 w2).c = 0 := by
  apply BitVec.eq_of_getLsbD_eq
  intro j hj
  rw [Frame.c, BitVec.getLsbD_extractLsb', ofFields_w0_bit]
  grind

@[simp] theorem ofFields_w1 (op a b : Field8) (w1 w2 : Word) : (Frame.ofFields op a b w1 w2).w1 = w1 := rfl
@[simp] theorem ofFields_w2 (op a b : Field8) (w1 w2 : Word) : (Frame.ofFields op a b w1 w2).w2 = w2 := rfl

/-- The row of a frame made from its fields. -/
@[simp] theorem opcodeRow_ofFields (op a b : Field8) (w1 w2 : Word) :
    opcodeRow (.ofFields op a b w1 w2) = rowOf op a b w1 w2 := by simp [opcodeRow]


/-- A frame whose reserved field is zero is made of its fields (spec/30_encoding.md R101). -/
theorem ofFields_fields {f : Frame} (hc : f.c = 0) : Frame.ofFields f.op f.a f.b f.w1 f.w2 = f := by
  obtain ⟨w0, w1, w2⟩ := f
  have : (w0.extractLsb' 24 8 ++ w0.extractLsb' 16 8 ++ w0.extractLsb' 8 8 ++ (0#8) : BitVec 32) = w0 := by
    have hc' : w0.extractLsb' 0 8 = 0#8 := hc
    rw [← hc']
    apply BitVec.eq_of_getLsbD_eq
    intro j hj
    simp only [BitVec.getLsbD_append, BitVec.getLsbD_extractLsb']
    split
    · simp [*]
    · split
      · have : 8 + (j - 8) = j := by omega
        simp [*]
      · split
        · have : 16 + (j - 8 - 8) = j := by omega
          simp [*]
        · have h1 : 24 + (j - 8 - 8 - 8) = j := by omega
          have h2 : j - 8 - 8 - 8 < 8 := by omega
          simp [*]
  simp only [Frame.ofFields, Frame.op, Frame.a, Frame.b]
  exact congrArg (fun w => Frame.mk w w1 w2) this

/-- A signed 32-bit index survives its word (spec/30_encoding.md R104). -/
theorem int32_ofInt {x : Int} (h : fitsInt32 x = true) : int32 (BitVec.ofInt 32 x) = x := by
  simp only [fitsInt32, Bool.and_eq_true, decide_eq_true_eq] at h
  rw [int32, BitVec.toInt_ofInt]
  simp only [Int.bmod_def]
  omega

theorem fits_int32 (w : Word) : fitsInt32 (int32 w) = true := by
  have h1 := BitVec.toInt_lt (x := w)
  have h2 := BitVec.le_toInt (x := w)
  exact Bool.and_eq_true_iff.2 ⟨decide_eq_true (by simpa [int32] using h2), decide_eq_true (by simp only [int32]; omega)⟩

/-- The word of a signed index read from a word. -/
theorem ofInt_int32 (w : Word) : BitVec.ofInt 32 (int32 w) = w := by simp [int32]

@[simp] theorem bitField_toNat_le (v : Bool) : (bitField v).toNat ≤ 1 := by cases v <;> decide
@[simp] theorem bitField_beq (v : Bool) : (bitField v == 1#8) = v := by cases v <;> rfl

end Sys2Proof
end

