-- ==== Sys2Proof/Laws/State.lean ====
section
/-! SUPPORT. One lemma per field of State per named update, so that no later proof unfolds a record update. -/

namespace Sys2Proof.Machine

@[simp] theorem logEvent_cfg (e : Event) (s : State) : (logEvent e s).cfg = s.cfg := rfl
@[simp] theorem logEvent_sig (e : Event) (s : State) : (logEvent e s).sig = s.sig := rfl
@[simp] theorem logEvent_lc (e : Event) (s : State) : (logEvent e s).lc = s.lc := rfl
@[simp] theorem logEvent_oe (e : Event) (s : State) : (logEvent e s).oe = s.oe := rfl
@[simp] theorem logEvent_dout (e : Event) (s : State) : (logEvent e s).dout = s.dout := rfl
@[simp] theorem logEvent_spi (e : Event) (s : State) : (logEvent e s).spi = s.spi := rfl
@[simp] theorem logEvent_ustep (e : Event) (s : State) : (logEvent e s).ustep = s.ustep := rfl
@[simp] theorem logEvent_prio (e : Event) (s : State) : (logEvent e s).prio = s.prio := rfl
@[simp] theorem logEvent_prioFails (e : Event) (s : State) : (logEvent e s).prioFails = s.prioFails := rfl
@[simp] theorem logEvent_st (e : Event) (s : State) : (logEvent e s).st = s.st := rfl
@[simp] theorem logEvent_seq (e : Event) (s : State) : (logEvent e s).seq = s.seq := rfl
@[simp] theorem logEvent_deadline (e : Event) (s : State) : (logEvent e s).deadline = s.deadline := rfl
@[simp] theorem logEvent_fault (e : Event) (s : State) : (logEvent e s).fault = s.fault := rfl
@[simp] theorem logEvent_clk (e : Event) (s : State) : (logEvent e s).clk = s.clk := rfl
@[simp] theorem logEvent_env (e : Event) (s : State) : (logEvent e s).env = s.env := rfl
@[simp] theorem logEvent_host (e : Event) (s : State) : (logEvent e s).host = s.host := rfl
@[simp] theorem logEvent_out (e : Event) (s : State) : (logEvent e s).out = s.out := rfl
@[simp] theorem logEvent_trace (e : Event) (s : State) : (logEvent e s).trace = s.trace ++ [e] := rfl

@[simp] theorem enter_cfg (p : Phase) (s : State) : (enter p s).cfg = s.cfg := rfl
@[simp] theorem enter_sig (p : Phase) (s : State) : (enter p s).sig = s.sig := rfl
@[simp] theorem enter_lc (p : Phase) (s : State) : (enter p s).lc = s.lc := rfl
@[simp] theorem enter_oe (p : Phase) (s : State) : (enter p s).oe = s.oe := rfl
@[simp] theorem enter_dout (p : Phase) (s : State) : (enter p s).dout = s.dout := rfl
@[simp] theorem enter_spi (p : Phase) (s : State) : (enter p s).spi = s.spi := rfl
@[simp] theorem enter_ustep (p : Phase) (s : State) : (enter p s).ustep = s.ustep := rfl
@[simp] theorem enter_prio (p : Phase) (s : State) : (enter p s).prio = s.prio := rfl
@[simp] theorem enter_prioFails (p : Phase) (s : State) : (enter p s).prioFails = s.prioFails := rfl
@[simp] theorem enter_st (p : Phase) (s : State) : (enter p s).st = s.st := rfl
@[simp] theorem enter_seq (p : Phase) (s : State) : (enter p s).seq = p := rfl
@[simp] theorem enter_deadline (p : Phase) (s : State) : (enter p s).deadline = s.deadline := rfl
@[simp] theorem enter_fault (p : Phase) (s : State) : (enter p s).fault = s.fault := rfl
@[simp] theorem enter_clk (p : Phase) (s : State) : (enter p s).clk = s.clk := rfl
@[simp] theorem enter_env (p : Phase) (s : State) : (enter p s).env = s.env := rfl
@[simp] theorem enter_host (p : Phase) (s : State) : (enter p s).host = s.host := rfl
@[simp] theorem enter_out (p : Phase) (s : State) : (enter p s).out = s.out := rfl
@[simp] theorem enter_trace (p : Phase) (s : State) : (enter p s).trace = s.trace ++ [.phase p] := rfl

@[simp] theorem elapse_cfg (s : State) : (elapse s).cfg = s.cfg := rfl
@[simp] theorem elapse_sig (s : State) : (elapse s).sig = s.sig := rfl
@[simp] theorem elapse_lc (s : State) : (elapse s).lc = s.lc := rfl
@[simp] theorem elapse_oe (s : State) : (elapse s).oe = s.oe := rfl
@[simp] theorem elapse_dout (s : State) : (elapse s).dout = s.dout := rfl
@[simp] theorem elapse_spi (s : State) : (elapse s).spi = s.spi := rfl
@[simp] theorem elapse_ustep (s : State) : (elapse s).ustep = s.ustep := rfl
@[simp] theorem elapse_prio (s : State) : (elapse s).prio = s.prio := rfl
@[simp] theorem elapse_prioFails (s : State) : (elapse s).prioFails = s.prioFails := rfl
@[simp] theorem elapse_st (s : State) : (elapse s).st = s.st := rfl
@[simp] theorem elapse_seq (s : State) : (elapse s).seq = s.seq := rfl
@[simp] theorem elapse_deadline (s : State) : (elapse s).deadline = s.deadline := rfl
@[simp] theorem elapse_fault (s : State) : (elapse s).fault = s.fault := rfl
@[simp] theorem elapse_clk (s : State) : (elapse s).clk = s.clk + s.env.gaps.head Config.freeGaps := rfl
@[simp] theorem elapse_env (s : State) : (elapse s).env = { s.env with gaps := s.env.gaps.tail } := rfl
@[simp] theorem elapse_host (s : State) : (elapse s).host = s.host := rfl
@[simp] theorem elapse_out (s : State) : (elapse s).out = s.out := rfl
@[simp] theorem elapse_trace (s : State) : (elapse s).trace = s.trace := rfl

@[simp] theorem tookAccess_cfg (s : State) : (tookAccess s).cfg = s.cfg := rfl
@[simp] theorem tookAccess_sig (s : State) : (tookAccess s).sig = s.sig := rfl
@[simp] theorem tookAccess_lc (s : State) : (tookAccess s).lc = s.lc := rfl
@[simp] theorem tookAccess_oe (s : State) : (tookAccess s).oe = s.oe := rfl
@[simp] theorem tookAccess_dout (s : State) : (tookAccess s).dout = s.dout := rfl
@[simp] theorem tookAccess_spi (s : State) : (tookAccess s).spi = s.spi := rfl
@[simp] theorem tookAccess_ustep (s : State) : (tookAccess s).ustep = s.ustep := rfl
@[simp] theorem tookAccess_prio (s : State) : (tookAccess s).prio = s.prio := rfl
@[simp] theorem tookAccess_prioFails (s : State) : (tookAccess s).prioFails = s.prioFails := rfl
@[simp] theorem tookAccess_st (s : State) : (tookAccess s).st = s.st := rfl
@[simp] theorem tookAccess_seq (s : State) : (tookAccess s).seq = s.seq := rfl
@[simp] theorem tookAccess_deadline (s : State) : (tookAccess s).deadline = s.deadline := rfl
@[simp] theorem tookAccess_fault (s : State) : (tookAccess s).fault = s.fault := rfl
@[simp] theorem tookAccess_clk (s : State) : (tookAccess s).clk = s.clk + s.env.gaps.head Config.freeGaps := rfl
@[simp] theorem tookAccess_env (s : State) : (tookAccess s).env = { s.env with accessOk := s.env.accessOk.tail, gaps := s.env.gaps.tail } := rfl
@[simp] theorem tookAccess_host (s : State) : (tookAccess s).host = s.host := rfl
@[simp] theorem tookAccess_out (s : State) : (tookAccess s).out = s.out := rfl
@[simp] theorem tookAccess_trace (s : State) : (tookAccess s).trace = s.trace := rfl

@[simp] theorem tookPads_cfg (s : State) : (tookPads s).cfg = s.cfg := rfl
@[simp] theorem tookPads_sig (s : State) : (tookPads s).sig = s.sig := rfl
@[simp] theorem tookPads_lc (s : State) : (tookPads s).lc = s.lc := rfl
@[simp] theorem tookPads_oe (s : State) : (tookPads s).oe = s.oe := rfl
@[simp] theorem tookPads_dout (s : State) : (tookPads s).dout = s.dout := rfl
@[simp] theorem tookPads_spi (s : State) : (tookPads s).spi = s.spi := rfl
@[simp] theorem tookPads_ustep (s : State) : (tookPads s).ustep = s.ustep := rfl
@[simp] theorem tookPads_prio (s : State) : (tookPads s).prio = s.prio := rfl
@[simp] theorem tookPads_prioFails (s : State) : (tookPads s).prioFails = s.prioFails := rfl
@[simp] theorem tookPads_st (s : State) : (tookPads s).st = s.st := rfl
@[simp] theorem tookPads_seq (s : State) : (tookPads s).seq = s.seq := rfl
@[simp] theorem tookPads_deadline (s : State) : (tookPads s).deadline = s.deadline := rfl
@[simp] theorem tookPads_fault (s : State) : (tookPads s).fault = s.fault := rfl
@[simp] theorem tookPads_clk (s : State) : (tookPads s).clk = s.clk := rfl
@[simp] theorem tookPads_env (s : State) : (tookPads s).env = { s.env with pads := s.env.pads.tail } := rfl
@[simp] theorem tookPads_host (s : State) : (tookPads s).host = s.host := rfl
@[simp] theorem tookPads_out (s : State) : (tookPads s).out = s.out := rfl
@[simp] theorem tookPads_trace (s : State) : (tookPads s).trace = s.trace := rfl

@[simp] theorem sampled_cfg (r : Reg) (s : State) : (sampled r s).cfg = s.cfg := by cases r <;> rfl
@[simp] theorem sampled_sig (r : Reg) (s : State) : (sampled r s).sig = s.sig := by cases r <;> rfl
@[simp] theorem sampled_lc (r : Reg) (s : State) : (sampled r s).lc = s.lc := by cases r <;> rfl
@[simp] theorem sampled_oe (r : Reg) (s : State) : (sampled r s).oe = s.oe := by cases r <;> rfl
@[simp] theorem sampled_dout (r : Reg) (s : State) : (sampled r s).dout = s.dout := by cases r <;> rfl
@[simp] theorem sampled_spi (r : Reg) (s : State) : (sampled r s).spi = s.spi := by cases r <;> rfl
@[simp] theorem sampled_ustep (r : Reg) (s : State) : (sampled r s).ustep = s.ustep := by cases r <;> rfl
@[simp] theorem sampled_prio (r : Reg) (s : State) : (sampled r s).prio = s.prio := by cases r <;> rfl
@[simp] theorem sampled_prioFails (r : Reg) (s : State) : (sampled r s).prioFails = s.prioFails := by cases r <;> rfl
@[simp] theorem sampled_st (r : Reg) (s : State) : (sampled r s).st = s.st := by cases r <;> rfl
@[simp] theorem sampled_seq (r : Reg) (s : State) : (sampled r s).seq = s.seq := by cases r <;> rfl
@[simp] theorem sampled_deadline (r : Reg) (s : State) : (sampled r s).deadline = s.deadline := by cases r <;> rfl
@[simp] theorem sampled_fault (r : Reg) (s : State) : (sampled r s).fault = s.fault := by cases r <;> rfl
@[simp] theorem sampled_clk (r : Reg) (s : State) : (sampled r s).clk = s.clk := by cases r <;> rfl
@[simp] theorem sampled_host (r : Reg) (s : State) : (sampled r s).host = s.host := by cases r <;> rfl
@[simp] theorem sampled_out (r : Reg) (s : State) : (sampled r s).out = s.out := by cases r <;> rfl
@[simp] theorem sampled_trace (r : Reg) (s : State) : (sampled r s).trace = s.trace := by cases r <;> rfl

@[simp] theorem setLatch_cfg (k : BankIdx) (l : Latch) (v : Word) (s : State) : (setLatch k l v s).cfg = s.cfg := by cases l <;> rfl
@[simp] theorem setLatch_sig (k : BankIdx) (l : Latch) (v : Word) (s : State) : (setLatch k l v s).sig = s.sig := by cases l <;> rfl
@[simp] theorem setLatch_lc (k : BankIdx) (l : Latch) (v : Word) (s : State) : (setLatch k l v s).lc = s.lc := by cases l <;> rfl
@[simp] theorem setLatch_spi (k : BankIdx) (l : Latch) (v : Word) (s : State) : (setLatch k l v s).spi = s.spi := by cases l <;> rfl
@[simp] theorem setLatch_ustep (k : BankIdx) (l : Latch) (v : Word) (s : State) : (setLatch k l v s).ustep = s.ustep := by cases l <;> rfl
@[simp] theorem setLatch_prio (k : BankIdx) (l : Latch) (v : Word) (s : State) : (setLatch k l v s).prio = s.prio := by cases l <;> rfl
@[simp] theorem setLatch_prioFails (k : BankIdx) (l : Latch) (v : Word) (s : State) : (setLatch k l v s).prioFails = s.prioFails := by cases l <;> rfl
@[simp] theorem setLatch_st (k : BankIdx) (l : Latch) (v : Word) (s : State) : (setLatch k l v s).st = s.st := by cases l <;> rfl
@[simp] theorem setLatch_seq (k : BankIdx) (l : Latch) (v : Word) (s : State) : (setLatch k l v s).seq = s.seq := by cases l <;> rfl
@[simp] theorem setLatch_deadline (k : BankIdx) (l : Latch) (v : Word) (s : State) : (setLatch k l v s).deadline = s.deadline := by cases l <;> rfl
@[simp] theorem setLatch_fault (k : BankIdx) (l : Latch) (v : Word) (s : State) : (setLatch k l v s).fault = s.fault := by cases l <;> rfl
@[simp] theorem setLatch_clk (k : BankIdx) (l : Latch) (v : Word) (s : State) : (setLatch k l v s).clk = s.clk := by cases l <;> rfl
@[simp] theorem setLatch_env (k : BankIdx) (l : Latch) (v : Word) (s : State) : (setLatch k l v s).env = s.env := by cases l <;> rfl
@[simp] theorem setLatch_host (k : BankIdx) (l : Latch) (v : Word) (s : State) : (setLatch k l v s).host = s.host := by cases l <;> rfl
@[simp] theorem setLatch_out (k : BankIdx) (l : Latch) (v : Word) (s : State) : (setLatch k l v s).out = s.out := by cases l <;> rfl
@[simp] theorem setLatch_trace (k : BankIdx) (l : Latch) (v : Word) (s : State) : (setLatch k l v s).trace = s.trace := by cases l <;> rfl

@[simp] theorem tookXfer_cfg (s : State) : (tookXfer s).cfg = s.cfg := rfl
@[simp] theorem tookXfer_sig (s : State) : (tookXfer s).sig = s.sig := rfl
@[simp] theorem tookXfer_lc (s : State) : (tookXfer s).lc = s.lc := rfl
@[simp] theorem tookXfer_oe (s : State) : (tookXfer s).oe = s.oe := rfl
@[simp] theorem tookXfer_dout (s : State) : (tookXfer s).dout = s.dout := rfl
@[simp] theorem tookXfer_spi (s : State) : (tookXfer s).spi = s.spi := rfl
@[simp] theorem tookXfer_ustep (s : State) : (tookXfer s).ustep = s.ustep := rfl
@[simp] theorem tookXfer_prio (s : State) : (tookXfer s).prio = s.prio := rfl
@[simp] theorem tookXfer_prioFails (s : State) : (tookXfer s).prioFails = s.prioFails := rfl
@[simp] theorem tookXfer_st (s : State) : (tookXfer s).st = s.st := rfl
@[simp] theorem tookXfer_seq (s : State) : (tookXfer s).seq = s.seq := rfl
@[simp] theorem tookXfer_deadline (s : State) : (tookXfer s).deadline = s.deadline := rfl
@[simp] theorem tookXfer_fault (s : State) : (tookXfer s).fault = s.fault := rfl
@[simp] theorem tookXfer_clk (s : State) : (tookXfer s).clk = s.clk + s.env.gaps.head Config.freeGaps := rfl
@[simp] theorem tookXfer_env (s : State) : (tookXfer s).env = { s.env with xferOk := s.env.xferOk.tail, gaps := s.env.gaps.tail } := rfl
@[simp] theorem tookXfer_host (s : State) : (tookXfer s).host = s.host := rfl
@[simp] theorem tookXfer_out (s : State) : (tookXfer s).out = s.out := rfl
@[simp] theorem tookXfer_trace (s : State) : (tookXfer s).trace = s.trace := rfl

@[simp] theorem tookRx_cfg (s : State) : (tookRx s).cfg = s.cfg := rfl
@[simp] theorem tookRx_sig (s : State) : (tookRx s).sig = s.sig := rfl
@[simp] theorem tookRx_lc (s : State) : (tookRx s).lc = s.lc := rfl
@[simp] theorem tookRx_oe (s : State) : (tookRx s).oe = s.oe := rfl
@[simp] theorem tookRx_dout (s : State) : (tookRx s).dout = s.dout := rfl
@[simp] theorem tookRx_spi (s : State) : (tookRx s).spi = s.spi := rfl
@[simp] theorem tookRx_ustep (s : State) : (tookRx s).ustep = s.ustep := rfl
@[simp] theorem tookRx_prio (s : State) : (tookRx s).prio = s.prio := rfl
@[simp] theorem tookRx_prioFails (s : State) : (tookRx s).prioFails = s.prioFails := rfl
@[simp] theorem tookRx_st (s : State) : (tookRx s).st = s.st := rfl
@[simp] theorem tookRx_seq (s : State) : (tookRx s).seq = s.seq := rfl
@[simp] theorem tookRx_deadline (s : State) : (tookRx s).deadline = s.deadline := rfl
@[simp] theorem tookRx_fault (s : State) : (tookRx s).fault = s.fault := rfl
@[simp] theorem tookRx_clk (s : State) : (tookRx s).clk = s.clk := rfl
@[simp] theorem tookRx_env (s : State) : (tookRx s).env = { s.env with rx := s.env.rx.tail } := rfl
@[simp] theorem tookRx_host (s : State) : (tookRx s).host = s.host := rfl
@[simp] theorem tookRx_out (s : State) : (tookRx s).out = s.out := rfl
@[simp] theorem tookRx_trace (s : State) : (tookRx s).trace = s.trace := rfl

@[simp] theorem setTx_cfg (w : Word) (s : State) : (setTx w s).cfg = s.cfg := rfl
@[simp] theorem setTx_sig (w : Word) (s : State) : (setTx w s).sig = s.sig := rfl
@[simp] theorem setTx_lc (w : Word) (s : State) : (setTx w s).lc = s.lc := rfl
@[simp] theorem setTx_oe (w : Word) (s : State) : (setTx w s).oe = s.oe := rfl
@[simp] theorem setTx_dout (w : Word) (s : State) : (setTx w s).dout = s.dout := rfl
@[simp] theorem setTx_spi (w : Word) (s : State) : (setTx w s).spi = { s.spi with tx := w } := rfl
@[simp] theorem setTx_ustep (w : Word) (s : State) : (setTx w s).ustep = s.ustep := rfl
@[simp] theorem setTx_prio (w : Word) (s : State) : (setTx w s).prio = s.prio := rfl
@[simp] theorem setTx_prioFails (w : Word) (s : State) : (setTx w s).prioFails = s.prioFails := rfl
@[simp] theorem setTx_st (w : Word) (s : State) : (setTx w s).st = s.st := rfl
@[simp] theorem setTx_seq (w : Word) (s : State) : (setTx w s).seq = s.seq := rfl
@[simp] theorem setTx_deadline (w : Word) (s : State) : (setTx w s).deadline = s.deadline := rfl
@[simp] theorem setTx_fault (w : Word) (s : State) : (setTx w s).fault = s.fault := rfl
@[simp] theorem setTx_clk (w : Word) (s : State) : (setTx w s).clk = s.clk := rfl
@[simp] theorem setTx_env (w : Word) (s : State) : (setTx w s).env = s.env := rfl
@[simp] theorem setTx_host (w : Word) (s : State) : (setTx w s).host = s.host := rfl
@[simp] theorem setTx_out (w : Word) (s : State) : (setTx w s).out = s.out := rfl
@[simp] theorem setTx_trace (w : Word) (s : State) : (setTx w s).trace = s.trace := rfl

@[simp] theorem setRx_cfg (w : Word) (s : State) : (setRx w s).cfg = s.cfg := rfl
@[simp] theorem setRx_sig (w : Word) (s : State) : (setRx w s).sig = s.sig := rfl
@[simp] theorem setRx_lc (w : Word) (s : State) : (setRx w s).lc = s.lc := rfl
@[simp] theorem setRx_oe (w : Word) (s : State) : (setRx w s).oe = s.oe := rfl
@[simp] theorem setRx_dout (w : Word) (s : State) : (setRx w s).dout = s.dout := rfl
@[simp] theorem setRx_spi (w : Word) (s : State) : (setRx w s).spi = { s.spi with rx := w } := rfl
@[simp] theorem setRx_ustep (w : Word) (s : State) : (setRx w s).ustep = s.ustep := rfl
@[simp] theorem setRx_prio (w : Word) (s : State) : (setRx w s).prio = s.prio := rfl
@[simp] theorem setRx_prioFails (w : Word) (s : State) : (setRx w s).prioFails = s.prioFails := rfl
@[simp] theorem setRx_st (w : Word) (s : State) : (setRx w s).st = s.st := rfl
@[simp] theorem setRx_seq (w : Word) (s : State) : (setRx w s).seq = s.seq := rfl
@[simp] theorem setRx_deadline (w : Word) (s : State) : (setRx w s).deadline = s.deadline := rfl
@[simp] theorem setRx_fault (w : Word) (s : State) : (setRx w s).fault = s.fault := rfl
@[simp] theorem setRx_clk (w : Word) (s : State) : (setRx w s).clk = s.clk := rfl
@[simp] theorem setRx_env (w : Word) (s : State) : (setRx w s).env = s.env := rfl
@[simp] theorem setRx_host (w : Word) (s : State) : (setRx w s).host = s.host := rfl
@[simp] theorem setRx_out (w : Word) (s : State) : (setRx w s).out = s.out := rfl
@[simp] theorem setRx_trace (w : Word) (s : State) : (setRx w s).trace = s.trace := rfl

@[simp] theorem settle_cfg (n : Word) (s : State) : (settle n s).cfg = s.cfg := rfl
@[simp] theorem settle_sig (n : Word) (s : State) : (settle n s).sig = s.sig := rfl
@[simp] theorem settle_lc (n : Word) (s : State) : (settle n s).lc = s.lc := rfl
@[simp] theorem settle_oe (n : Word) (s : State) : (settle n s).oe = s.oe := rfl
@[simp] theorem settle_dout (n : Word) (s : State) : (settle n s).dout = s.dout := rfl
@[simp] theorem settle_spi (n : Word) (s : State) : (settle n s).spi = s.spi := rfl
@[simp] theorem settle_ustep (n : Word) (s : State) : (settle n s).ustep = s.ustep := rfl
@[simp] theorem settle_prio (n : Word) (s : State) : (settle n s).prio = s.prio := rfl
@[simp] theorem settle_prioFails (n : Word) (s : State) : (settle n s).prioFails = s.prioFails := rfl
@[simp] theorem settle_st (n : Word) (s : State) : (settle n s).st = s.st := rfl
@[simp] theorem settle_seq (n : Word) (s : State) : (settle n s).seq = s.seq := rfl
@[simp] theorem settle_deadline (n : Word) (s : State) : (settle n s).deadline = s.deadline := rfl
@[simp] theorem settle_fault (n : Word) (s : State) : (settle n s).fault = s.fault := rfl
@[simp] theorem settle_clk (n : Word) (s : State) : (settle n s).clk = s.clk + s.env.gaps.head Config.freeGaps := rfl
@[simp] theorem settle_env (n : Word) (s : State) : (settle n s).env = { s.env with gaps := s.env.gaps.tail } := rfl
@[simp] theorem settle_host (n : Word) (s : State) : (settle n s).host = s.host := rfl
@[simp] theorem settle_out (n : Word) (s : State) : (settle n s).out = s.out := rfl
@[simp] theorem settle_trace (n : Word) (s : State) : (settle n s).trace = s.trace ++ [.settle (n.toNat * s.cfg.tSettle)] := rfl

@[simp] theorem tookNow_cfg (s : State) : (tookNow s).cfg = s.cfg := rfl
@[simp] theorem tookNow_sig (s : State) : (tookNow s).sig = s.sig := rfl
@[simp] theorem tookNow_lc (s : State) : (tookNow s).lc = s.lc := rfl
@[simp] theorem tookNow_oe (s : State) : (tookNow s).oe = s.oe := rfl
@[simp] theorem tookNow_dout (s : State) : (tookNow s).dout = s.dout := rfl
@[simp] theorem tookNow_spi (s : State) : (tookNow s).spi = s.spi := rfl
@[simp] theorem tookNow_ustep (s : State) : (tookNow s).ustep = s.ustep := rfl
@[simp] theorem tookNow_prio (s : State) : (tookNow s).prio = s.prio := rfl
@[simp] theorem tookNow_prioFails (s : State) : (tookNow s).prioFails = s.prioFails := rfl
@[simp] theorem tookNow_st (s : State) : (tookNow s).st = s.st := rfl
@[simp] theorem tookNow_seq (s : State) : (tookNow s).seq = s.seq := rfl
@[simp] theorem tookNow_deadline (s : State) : (tookNow s).deadline = s.deadline := rfl
@[simp] theorem tookNow_fault (s : State) : (tookNow s).fault = s.fault := rfl
@[simp] theorem tookNow_clk (s : State) : (tookNow s).clk = nowValue s := rfl
@[simp] theorem tookNow_env (s : State) : (tookNow s).env = { s.env with ticks := s.env.ticks.tail } := rfl
@[simp] theorem tookNow_host (s : State) : (tookNow s).host = s.host := rfl
@[simp] theorem tookNow_out (s : State) : (tookNow s).out = s.out := rfl
@[simp] theorem tookNow_trace (s : State) : (tookNow s).trace = s.trace := rfl

@[simp] theorem busyWait_cfg (h : Nat) (s : State) : (busyWait h s).cfg = s.cfg := rfl
@[simp] theorem busyWait_sig (h : Nat) (s : State) : (busyWait h s).sig = s.sig := rfl
@[simp] theorem busyWait_lc (h : Nat) (s : State) : (busyWait h s).lc = s.lc := rfl
@[simp] theorem busyWait_oe (h : Nat) (s : State) : (busyWait h s).oe = s.oe := rfl
@[simp] theorem busyWait_dout (h : Nat) (s : State) : (busyWait h s).dout = s.dout := rfl
@[simp] theorem busyWait_spi (h : Nat) (s : State) : (busyWait h s).spi = s.spi := rfl
@[simp] theorem busyWait_ustep (h : Nat) (s : State) : (busyWait h s).ustep = s.ustep := rfl
@[simp] theorem busyWait_prio (h : Nat) (s : State) : (busyWait h s).prio = s.prio := rfl
@[simp] theorem busyWait_prioFails (h : Nat) (s : State) : (busyWait h s).prioFails = s.prioFails := rfl
@[simp] theorem busyWait_st (h : Nat) (s : State) : (busyWait h s).st = s.st := rfl
@[simp] theorem busyWait_seq (h : Nat) (s : State) : (busyWait h s).seq = s.seq := rfl
@[simp] theorem busyWait_deadline (h : Nat) (s : State) : (busyWait h s).deadline = nowValue s + h := rfl
@[simp] theorem busyWait_env_accessOk (h : Nat) (s : State) : (busyWait h s).env.accessOk = s.env.accessOk := rfl
@[simp] theorem busyWait_env_gaps (h : Nat) (s : State) : (busyWait h s).env.gaps = s.env.gaps := rfl
@[simp] theorem busyWait_fault (h : Nat) (s : State) : (busyWait h s).fault = s.fault := rfl
@[simp] theorem busyWait_host (h : Nat) (s : State) : (busyWait h s).host = s.host := rfl
@[simp] theorem busyWait_out (h : Nat) (s : State) : (busyWait h s).out = s.out := rfl

@[simp] theorem tookPrio_cfg (s : State) : (tookPrio s).cfg = s.cfg := rfl
@[simp] theorem tookPrio_sig (s : State) : (tookPrio s).sig = s.sig := rfl
@[simp] theorem tookPrio_lc (s : State) : (tookPrio s).lc = s.lc := rfl
@[simp] theorem tookPrio_oe (s : State) : (tookPrio s).oe = s.oe := rfl
@[simp] theorem tookPrio_dout (s : State) : (tookPrio s).dout = s.dout := rfl
@[simp] theorem tookPrio_spi (s : State) : (tookPrio s).spi = s.spi := rfl
@[simp] theorem tookPrio_ustep (s : State) : (tookPrio s).ustep = s.ustep := rfl
@[simp] theorem tookPrio_prio (s : State) : (tookPrio s).prio = s.prio := rfl
@[simp] theorem tookPrio_prioFails (s : State) : (tookPrio s).prioFails = s.prioFails := rfl
@[simp] theorem tookPrio_st (s : State) : (tookPrio s).st = s.st := rfl
@[simp] theorem tookPrio_seq (s : State) : (tookPrio s).seq = s.seq := rfl
@[simp] theorem tookPrio_deadline (s : State) : (tookPrio s).deadline = s.deadline := rfl
@[simp] theorem tookPrio_fault (s : State) : (tookPrio s).fault = s.fault := rfl
@[simp] theorem tookPrio_clk (s : State) : (tookPrio s).clk = s.clk := rfl
@[simp] theorem tookPrio_env (s : State) : (tookPrio s).env = { s.env with prioGranted := s.env.prioGranted.tail } := rfl
@[simp] theorem tookPrio_host (s : State) : (tookPrio s).host = s.host := rfl
@[simp] theorem tookPrio_out (s : State) : (tookPrio s).out = s.out := rfl
@[simp] theorem tookPrio_trace (s : State) : (tookPrio s).trace = s.trace := rfl

@[simp] theorem elevate_cfg (s : State) : (elevate s).cfg = s.cfg := by unfold elevate; split <;> simp_all [logEvent, tookPrio]
@[simp] theorem elevate_sig (s : State) : (elevate s).sig = s.sig := by unfold elevate; split <;> simp_all [logEvent, tookPrio]
@[simp] theorem elevate_lc (s : State) : (elevate s).lc = s.lc := by unfold elevate; split <;> simp_all [logEvent, tookPrio]
@[simp] theorem elevate_oe (s : State) : (elevate s).oe = s.oe := by unfold elevate; split <;> simp_all [logEvent, tookPrio]
@[simp] theorem elevate_dout (s : State) : (elevate s).dout = s.dout := by unfold elevate; split <;> simp_all [logEvent, tookPrio]
@[simp] theorem elevate_spi (s : State) : (elevate s).spi = s.spi := by unfold elevate; split <;> simp_all [logEvent, tookPrio]
@[simp] theorem elevate_ustep (s : State) : (elevate s).ustep = s.ustep := by unfold elevate; split <;> simp_all [logEvent, tookPrio]
@[simp] theorem elevate_st (s : State) : (elevate s).st = s.st := by unfold elevate; split <;> simp_all [logEvent, tookPrio]
@[simp] theorem elevate_seq (s : State) : (elevate s).seq = s.seq := by unfold elevate; split <;> simp_all [logEvent, tookPrio]
@[simp] theorem elevate_deadline (s : State) : (elevate s).deadline = s.deadline := by unfold elevate; split <;> simp_all [logEvent, tookPrio]
@[simp] theorem elevate_fault (s : State) : (elevate s).fault = s.fault := by unfold elevate; split <;> simp_all [logEvent, tookPrio]
@[simp] theorem elevate_clk (s : State) : (elevate s).clk = s.clk := by unfold elevate; split <;> simp_all [logEvent, tookPrio]
@[simp] theorem elevate_env (s : State) : (elevate s).env = { s.env with prioGranted := s.env.prioGranted.tail } := by unfold elevate; split <;> simp_all [logEvent, tookPrio]
@[simp] theorem elevate_host (s : State) : (elevate s).host = s.host := by unfold elevate; split <;> simp_all [logEvent, tookPrio]
@[simp] theorem elevate_out (s : State) : (elevate s).out = s.out := by unfold elevate; split <;> simp_all [logEvent, tookPrio]
@[simp] theorem elevate_trace (s : State) : (elevate s).trace = s.trace ++ [.elevate (prioGranted s)] := by unfold elevate; split <;> simp_all [logEvent, tookPrio]

@[simp] theorem release_cfg (s : State) : (release s).cfg = s.cfg := rfl
@[simp] theorem release_sig (s : State) : (release s).sig = s.sig := rfl
@[simp] theorem release_lc (s : State) : (release s).lc = s.lc := rfl
@[simp] theorem release_oe (s : State) : (release s).oe = s.oe := rfl
@[simp] theorem release_dout (s : State) : (release s).dout = s.dout := rfl
@[simp] theorem release_spi (s : State) : (release s).spi = s.spi := rfl
@[simp] theorem release_ustep (s : State) : (release s).ustep = s.ustep := rfl
@[simp] theorem release_prio (s : State) : (release s).prio = .normal := rfl
@[simp] theorem release_prioFails (s : State) : (release s).prioFails = s.prioFails := rfl
@[simp] theorem release_st (s : State) : (release s).st = s.st := rfl
@[simp] theorem release_seq (s : State) : (release s).seq = s.seq := rfl
@[simp] theorem release_deadline (s : State) : (release s).deadline = s.deadline := rfl
@[simp] theorem release_fault (s : State) : (release s).fault = s.fault := rfl
@[simp] theorem release_clk (s : State) : (release s).clk = s.clk := rfl
@[simp] theorem release_env (s : State) : (release s).env = s.env := rfl
@[simp] theorem release_host (s : State) : (release s).host = s.host := rfl
@[simp] theorem release_out (s : State) : (release s).out = s.out := rfl
@[simp] theorem release_trace (s : State) : (release s).trace = s.trace := rfl

@[simp] theorem yieldCpu_cfg (s : State) : (yieldCpu s).cfg = s.cfg := rfl
@[simp] theorem yieldCpu_sig (s : State) : (yieldCpu s).sig = s.sig := rfl
@[simp] theorem yieldCpu_lc (s : State) : (yieldCpu s).lc = s.lc := rfl
@[simp] theorem yieldCpu_oe (s : State) : (yieldCpu s).oe = s.oe := rfl
@[simp] theorem yieldCpu_dout (s : State) : (yieldCpu s).dout = s.dout := rfl
@[simp] theorem yieldCpu_spi (s : State) : (yieldCpu s).spi = s.spi := rfl
@[simp] theorem yieldCpu_ustep (s : State) : (yieldCpu s).ustep = s.ustep := rfl
@[simp] theorem yieldCpu_prio (s : State) : (yieldCpu s).prio = s.prio := rfl
@[simp] theorem yieldCpu_prioFails (s : State) : (yieldCpu s).prioFails = s.prioFails := rfl
@[simp] theorem yieldCpu_st (s : State) : (yieldCpu s).st = s.st := rfl
@[simp] theorem yieldCpu_seq (s : State) : (yieldCpu s).seq = s.seq := rfl
@[simp] theorem yieldCpu_deadline (s : State) : (yieldCpu s).deadline = s.deadline := rfl
@[simp] theorem yieldCpu_fault (s : State) : (yieldCpu s).fault = s.fault := rfl
@[simp] theorem yieldCpu_clk (s : State) : (yieldCpu s).clk = s.clk := rfl
@[simp] theorem yieldCpu_env (s : State) : (yieldCpu s).env = s.env := rfl
@[simp] theorem yieldCpu_host (s : State) : (yieldCpu s).host = s.host := rfl
@[simp] theorem yieldCpu_out (s : State) : (yieldCpu s).out = s.out := rfl
@[simp] theorem yieldCpu_trace (s : State) : (yieldCpu s).trace = s.trace ++ [.yielded] := rfl

@[simp] theorem respond_cfg (r : Response) (s : State) : (respond r s).cfg = s.cfg := rfl
@[simp] theorem respond_sig (r : Response) (s : State) : (respond r s).sig = s.sig := rfl
@[simp] theorem respond_lc (r : Response) (s : State) : (respond r s).lc = s.lc := rfl
@[simp] theorem respond_oe (r : Response) (s : State) : (respond r s).oe = s.oe := rfl
@[simp] theorem respond_dout (r : Response) (s : State) : (respond r s).dout = s.dout := rfl
@[simp] theorem respond_spi (r : Response) (s : State) : (respond r s).spi = s.spi := rfl
@[simp] theorem respond_ustep (r : Response) (s : State) : (respond r s).ustep = s.ustep := rfl
@[simp] theorem respond_prio (r : Response) (s : State) : (respond r s).prio = .normal := rfl
@[simp] theorem respond_prioFails (r : Response) (s : State) : (respond r s).prioFails = s.prioFails := rfl
@[simp] theorem respond_st (r : Response) (s : State) : (respond r s).st = s.st := rfl
@[simp] theorem respond_seq (r : Response) (s : State) : (respond r s).seq = .idle := rfl
@[simp] theorem respond_deadline (r : Response) (s : State) : (respond r s).deadline = s.deadline := rfl
@[simp] theorem respond_fault (r : Response) (s : State) : (respond r s).fault = s.fault := rfl
@[simp] theorem respond_clk (r : Response) (s : State) : (respond r s).clk = s.clk := rfl
@[simp] theorem respond_env (r : Response) (s : State) : (respond r s).env = s.env := rfl
@[simp] theorem respond_host (r : Response) (s : State) : (respond r s).host = s.host := rfl
@[simp] theorem respond_out (r : Response) (s : State) : (respond r s).out = some r.frame := rfl
@[simp] theorem respond_trace (r : Response) (s : State) : (respond r s).trace = s.trace := rfl

@[simp] theorem takeFault_cfg (f : Raised) (s : State) : (takeFault f s).cfg = s.cfg := by unfold takeFault; split <;> rfl
@[simp] theorem takeFault_sig (f : Raised) (s : State) : (takeFault f s).sig = s.sig := by unfold takeFault; split <;> rfl
@[simp] theorem takeFault_oe (f : Raised) (s : State) : (takeFault f s).oe = s.oe := by unfold takeFault; split <;> rfl
@[simp] theorem takeFault_dout (f : Raised) (s : State) : (takeFault f s).dout = s.dout := by unfold takeFault; split <;> rfl
@[simp] theorem takeFault_spi (f : Raised) (s : State) : (takeFault f s).spi = s.spi := by unfold takeFault; split <;> rfl
@[simp] theorem takeFault_ustep (f : Raised) (s : State) : (takeFault f s).ustep = s.ustep := by unfold takeFault; split <;> rfl
@[simp] theorem takeFault_prio (f : Raised) (s : State) : (takeFault f s).prio = .normal := by unfold takeFault; split <;> rfl
@[simp] theorem takeFault_prioFails (f : Raised) (s : State) : (takeFault f s).prioFails = s.prioFails := by unfold takeFault; split <;> rfl
@[simp] theorem takeFault_st (f : Raised) (s : State) : (takeFault f s).st = s.st := by unfold takeFault; split <;> rfl
@[simp] theorem takeFault_deadline (f : Raised) (s : State) : (takeFault f s).deadline = s.deadline := by unfold takeFault; split <;> rfl
@[simp] theorem takeFault_clk (f : Raised) (s : State) : (takeFault f s).clk = s.clk := by unfold takeFault; split <;> rfl
@[simp] theorem takeFault_env (f : Raised) (s : State) : (takeFault f s).env = s.env := by unfold takeFault; split <;> rfl
@[simp] theorem takeFault_host (f : Raised) (s : State) : (takeFault f s).host = s.host := by unfold takeFault; split <;> rfl
@[simp] theorem takeFault_trace (f : Raised) (s : State) : (takeFault f s).trace = s.trace := by unfold takeFault; split <;> rfl

@[simp] theorem dropResponse_cfg (s : State) : (dropResponse s).cfg = s.cfg := rfl
@[simp] theorem dropResponse_sig (s : State) : (dropResponse s).sig = s.sig := rfl
@[simp] theorem dropResponse_lc (s : State) : (dropResponse s).lc = s.lc := rfl
@[simp] theorem dropResponse_oe (s : State) : (dropResponse s).oe = s.oe := rfl
@[simp] theorem dropResponse_dout (s : State) : (dropResponse s).dout = s.dout := rfl
@[simp] theorem dropResponse_spi (s : State) : (dropResponse s).spi = s.spi := rfl
@[simp] theorem dropResponse_ustep (s : State) : (dropResponse s).ustep = s.ustep := rfl
@[simp] theorem dropResponse_prio (s : State) : (dropResponse s).prio = s.prio := rfl
@[simp] theorem dropResponse_prioFails (s : State) : (dropResponse s).prioFails = s.prioFails := rfl
@[simp] theorem dropResponse_st (s : State) : (dropResponse s).st = s.st := rfl
@[simp] theorem dropResponse_seq (s : State) : (dropResponse s).seq = s.seq := rfl
@[simp] theorem dropResponse_deadline (s : State) : (dropResponse s).deadline = s.deadline := rfl
@[simp] theorem dropResponse_fault (s : State) : (dropResponse s).fault = s.fault := rfl
@[simp] theorem dropResponse_clk (s : State) : (dropResponse s).clk = s.clk := rfl
@[simp] theorem dropResponse_env (s : State) : (dropResponse s).env = s.env := rfl
@[simp] theorem dropResponse_host (s : State) : (dropResponse s).host = s.host := rfl
@[simp] theorem dropResponse_out (s : State) : (dropResponse s).out = none := rfl
@[simp] theorem dropResponse_trace (s : State) : (dropResponse s).trace = s.trace := rfl

@[simp] theorem actorTurn_cfg (s : State) : (actorTurn s).cfg = s.cfg := rfl
@[simp] theorem actorTurn_sig (s : State) : (actorTurn s).sig = s.sig := rfl
@[simp] theorem actorTurn_lc (s : State) : (actorTurn s).lc = s.lc := rfl
@[simp] theorem actorTurn_oe (s : State) : (actorTurn s).oe = afterWrites .oe (actorWrites s) s.oe := rfl
@[simp] theorem actorTurn_dout (s : State) : (actorTurn s).dout = afterWrites .dout (actorWrites s) s.dout := rfl
@[simp] theorem actorTurn_spi (s : State) : (actorTurn s).spi = s.spi := rfl
@[simp] theorem actorTurn_ustep (s : State) : (actorTurn s).ustep = s.ustep := rfl
@[simp] theorem actorTurn_prio (s : State) : (actorTurn s).prio = s.prio := rfl
@[simp] theorem actorTurn_prioFails (s : State) : (actorTurn s).prioFails = s.prioFails := rfl
@[simp] theorem actorTurn_st (s : State) : (actorTurn s).st = s.st := rfl
@[simp] theorem actorTurn_seq (s : State) : (actorTurn s).seq = s.seq := rfl
@[simp] theorem actorTurn_deadline (s : State) : (actorTurn s).deadline = s.deadline := rfl
@[simp] theorem actorTurn_fault (s : State) : (actorTurn s).fault = s.fault := rfl
@[simp] theorem actorTurn_clk (s : State) : (actorTurn s).clk = s.clk := rfl
@[simp] theorem actorTurn_env (s : State) : (actorTurn s).env = { s.env with actor := s.env.actor.tail } := rfl
@[simp] theorem actorTurn_host (s : State) : (actorTurn s).host = s.host := rfl
@[simp] theorem actorTurn_out (s : State) : (actorTurn s).out = s.out := rfl
@[simp] theorem actorTurn_trace (s : State) : (actorTurn s).trace = s.trace := rfl

@[simp] theorem resetBlock_cfg (s : State) : (resetBlock s).cfg = s.cfg := rfl
@[simp] theorem resetBlock_sig (s : State) : (resetBlock s).sig = s.cfg.resolve := rfl
@[simp] theorem resetBlock_lc (s : State) : (resetBlock s).lc = .closed := rfl
@[simp] theorem resetBlock_oe (s : State) : (resetBlock s).oe = s.oe := rfl
@[simp] theorem resetBlock_dout (s : State) : (resetBlock s).dout = s.dout := rfl
@[simp] theorem resetBlock_spi (s : State) : (resetBlock s).spi = .reset := rfl
@[simp] theorem resetBlock_ustep (s : State) : (resetBlock s).ustep = none := rfl
@[simp] theorem resetBlock_prio (s : State) : (resetBlock s).prio = .normal := rfl
@[simp] theorem resetBlock_prioFails (s : State) : (resetBlock s).prioFails = 0 := rfl
@[simp] theorem resetBlock_st (s : State) : (resetBlock s).st = .reset := rfl
@[simp] theorem resetBlock_seq (s : State) : (resetBlock s).seq = .idle := rfl
@[simp] theorem resetBlock_deadline (s : State) : (resetBlock s).deadline = 0 := rfl
@[simp] theorem resetBlock_fault (s : State) : (resetBlock s).fault = { cause := .none, info := none, halted := false } := rfl
@[simp] theorem resetBlock_clk (s : State) : (resetBlock s).clk = s.clk := rfl
@[simp] theorem resetBlock_env (s : State) : (resetBlock s).env = s.env := rfl
@[simp] theorem resetBlock_host (s : State) : (resetBlock s).host = s.host := rfl
@[simp] theorem resetBlock_out (s : State) : (resetBlock s).out = none := rfl
@[simp] theorem resetBlock_trace (s : State) : (resetBlock s).trace = s.trace ++ [.reset] := rfl

@[simp] theorem tookOpen_cfg (s : State) : (tookOpen s).cfg = s.cfg := rfl
@[simp] theorem tookOpen_sig (s : State) : (tookOpen s).sig = s.sig := rfl
@[simp] theorem tookOpen_lc (s : State) : (tookOpen s).lc = s.lc := rfl
@[simp] theorem tookOpen_oe (s : State) : (tookOpen s).oe = s.oe := rfl
@[simp] theorem tookOpen_dout (s : State) : (tookOpen s).dout = s.dout := rfl
@[simp] theorem tookOpen_spi (s : State) : (tookOpen s).spi = s.spi := rfl
@[simp] theorem tookOpen_ustep (s : State) : (tookOpen s).ustep = s.ustep := rfl
@[simp] theorem tookOpen_prio (s : State) : (tookOpen s).prio = s.prio := rfl
@[simp] theorem tookOpen_prioFails (s : State) : (tookOpen s).prioFails = s.prioFails := rfl
@[simp] theorem tookOpen_st (s : State) : (tookOpen s).st = s.st := rfl
@[simp] theorem tookOpen_seq (s : State) : (tookOpen s).seq = s.seq := rfl
@[simp] theorem tookOpen_deadline (s : State) : (tookOpen s).deadline = s.deadline := rfl
@[simp] theorem tookOpen_fault (s : State) : (tookOpen s).fault = s.fault := rfl
@[simp] theorem tookOpen_clk (s : State) : (tookOpen s).clk = s.clk := rfl
@[simp] theorem tookOpen_env (s : State) : (tookOpen s).env = { s.env with openOk := s.env.openOk.tail } := rfl
@[simp] theorem tookOpen_host (s : State) : (tookOpen s).host = s.host := rfl
@[simp] theorem tookOpen_out (s : State) : (tookOpen s).out = s.out := rfl
@[simp] theorem tookOpen_trace (s : State) : (tookOpen s).trace = s.trace := rfl

@[simp] theorem tookMap_cfg (s : State) : (tookMap s).cfg = s.cfg := rfl
@[simp] theorem tookMap_sig (s : State) : (tookMap s).sig = s.sig := rfl
@[simp] theorem tookMap_lc (s : State) : (tookMap s).lc = s.lc := rfl
@[simp] theorem tookMap_oe (s : State) : (tookMap s).oe = s.oe := rfl
@[simp] theorem tookMap_dout (s : State) : (tookMap s).dout = s.dout := rfl
@[simp] theorem tookMap_spi (s : State) : (tookMap s).spi = s.spi := rfl
@[simp] theorem tookMap_ustep (s : State) : (tookMap s).ustep = s.ustep := rfl
@[simp] theorem tookMap_prio (s : State) : (tookMap s).prio = s.prio := rfl
@[simp] theorem tookMap_prioFails (s : State) : (tookMap s).prioFails = s.prioFails := rfl
@[simp] theorem tookMap_st (s : State) : (tookMap s).st = s.st := rfl
@[simp] theorem tookMap_seq (s : State) : (tookMap s).seq = s.seq := rfl
@[simp] theorem tookMap_deadline (s : State) : (tookMap s).deadline = s.deadline := rfl
@[simp] theorem tookMap_fault (s : State) : (tookMap s).fault = s.fault := rfl
@[simp] theorem tookMap_clk (s : State) : (tookMap s).clk = s.clk := rfl
@[simp] theorem tookMap_env (s : State) : (tookMap s).env = { s.env with mapOk := s.env.mapOk.tail } := rfl
@[simp] theorem tookMap_host (s : State) : (tookMap s).host = s.host := rfl
@[simp] theorem tookMap_out (s : State) : (tookMap s).out = s.out := rfl
@[simp] theorem tookMap_trace (s : State) : (tookMap s).trace = s.trace := rfl

@[simp] theorem tookSpiOpen_cfg (s : State) : (tookSpiOpen s).cfg = s.cfg := rfl
@[simp] theorem tookSpiOpen_sig (s : State) : (tookSpiOpen s).sig = s.sig := rfl
@[simp] theorem tookSpiOpen_lc (s : State) : (tookSpiOpen s).lc = s.lc := rfl
@[simp] theorem tookSpiOpen_oe (s : State) : (tookSpiOpen s).oe = s.oe := rfl
@[simp] theorem tookSpiOpen_dout (s : State) : (tookSpiOpen s).dout = s.dout := rfl
@[simp] theorem tookSpiOpen_spi (s : State) : (tookSpiOpen s).spi = s.spi := rfl
@[simp] theorem tookSpiOpen_ustep (s : State) : (tookSpiOpen s).ustep = s.ustep := rfl
@[simp] theorem tookSpiOpen_prio (s : State) : (tookSpiOpen s).prio = s.prio := rfl
@[simp] theorem tookSpiOpen_prioFails (s : State) : (tookSpiOpen s).prioFails = s.prioFails := rfl
@[simp] theorem tookSpiOpen_st (s : State) : (tookSpiOpen s).st = s.st := rfl
@[simp] theorem tookSpiOpen_seq (s : State) : (tookSpiOpen s).seq = s.seq := rfl
@[simp] theorem tookSpiOpen_deadline (s : State) : (tookSpiOpen s).deadline = s.deadline := rfl
@[simp] theorem tookSpiOpen_fault (s : State) : (tookSpiOpen s).fault = s.fault := rfl
@[simp] theorem tookSpiOpen_clk (s : State) : (tookSpiOpen s).clk = s.clk := rfl
@[simp] theorem tookSpiOpen_env (s : State) : (tookSpiOpen s).env = { s.env with spiOpenOk := s.env.spiOpenOk.tail } := rfl
@[simp] theorem tookSpiOpen_host (s : State) : (tookSpiOpen s).host = s.host := rfl
@[simp] theorem tookSpiOpen_out (s : State) : (tookSpiOpen s).out = s.out := rfl
@[simp] theorem tookSpiOpen_trace (s : State) : (tookSpiOpen s).trace = s.trace := rfl

@[simp] theorem tookIoctl_cfg (s : State) : (tookIoctl s).cfg = s.cfg := rfl
@[simp] theorem tookIoctl_sig (s : State) : (tookIoctl s).sig = s.sig := rfl
@[simp] theorem tookIoctl_lc (s : State) : (tookIoctl s).lc = s.lc := rfl
@[simp] theorem tookIoctl_oe (s : State) : (tookIoctl s).oe = s.oe := rfl
@[simp] theorem tookIoctl_dout (s : State) : (tookIoctl s).dout = s.dout := rfl
@[simp] theorem tookIoctl_spi (s : State) : (tookIoctl s).spi = s.spi := rfl
@[simp] theorem tookIoctl_ustep (s : State) : (tookIoctl s).ustep = s.ustep := rfl
@[simp] theorem tookIoctl_prio (s : State) : (tookIoctl s).prio = s.prio := rfl
@[simp] theorem tookIoctl_prioFails (s : State) : (tookIoctl s).prioFails = s.prioFails := rfl
@[simp] theorem tookIoctl_st (s : State) : (tookIoctl s).st = s.st := rfl
@[simp] theorem tookIoctl_seq (s : State) : (tookIoctl s).seq = s.seq := rfl
@[simp] theorem tookIoctl_deadline (s : State) : (tookIoctl s).deadline = s.deadline := rfl
@[simp] theorem tookIoctl_fault (s : State) : (tookIoctl s).fault = s.fault := rfl
@[simp] theorem tookIoctl_clk (s : State) : (tookIoctl s).clk = s.clk := rfl
@[simp] theorem tookIoctl_env (s : State) : (tookIoctl s).env = { s.env with ioctlOk := s.env.ioctlOk.tail } := rfl
@[simp] theorem tookIoctl_host (s : State) : (tookIoctl s).host = s.host := rfl
@[simp] theorem tookIoctl_out (s : State) : (tookIoctl s).out = s.out := rfl
@[simp] theorem tookIoctl_trace (s : State) : (tookIoctl s).trace = s.trace := rfl

@[simp] theorem tookReadback_cfg (s : State) : (tookReadback s).cfg = s.cfg := rfl
@[simp] theorem tookReadback_sig (s : State) : (tookReadback s).sig = s.sig := rfl
@[simp] theorem tookReadback_lc (s : State) : (tookReadback s).lc = s.lc := rfl
@[simp] theorem tookReadback_oe (s : State) : (tookReadback s).oe = s.oe := rfl
@[simp] theorem tookReadback_dout (s : State) : (tookReadback s).dout = s.dout := rfl
@[simp] theorem tookReadback_spi (s : State) : (tookReadback s).spi = s.spi := rfl
@[simp] theorem tookReadback_ustep (s : State) : (tookReadback s).ustep = s.ustep := rfl
@[simp] theorem tookReadback_prio (s : State) : (tookReadback s).prio = s.prio := rfl
@[simp] theorem tookReadback_prioFails (s : State) : (tookReadback s).prioFails = s.prioFails := rfl
@[simp] theorem tookReadback_st (s : State) : (tookReadback s).st = s.st := rfl
@[simp] theorem tookReadback_seq (s : State) : (tookReadback s).seq = s.seq := rfl
@[simp] theorem tookReadback_deadline (s : State) : (tookReadback s).deadline = s.deadline := rfl
@[simp] theorem tookReadback_fault (s : State) : (tookReadback s).fault = s.fault := rfl
@[simp] theorem tookReadback_clk (s : State) : (tookReadback s).clk = s.clk := rfl
@[simp] theorem tookReadback_env (s : State) : (tookReadback s).env = { s.env with readback := s.env.readback.tail } := rfl
@[simp] theorem tookReadback_host (s : State) : (tookReadback s).host = s.host := rfl
@[simp] theorem tookReadback_out (s : State) : (tookReadback s).out = s.out := rfl
@[simp] theorem tookReadback_trace (s : State) : (tookReadback s).trace = s.trace := rfl

@[simp] theorem beginMeasure_cfg (d : AdcDev) (c : AdcChan) (n : Nat) (s : State) : (beginMeasure d c n s).cfg = s.cfg := rfl
@[simp] theorem beginMeasure_sig (d : AdcDev) (c : AdcChan) (n : Nat) (s : State) : (beginMeasure d c n s).sig = s.sig := rfl
@[simp] theorem beginMeasure_lc (d : AdcDev) (c : AdcChan) (n : Nat) (s : State) : (beginMeasure d c n s).lc = s.lc := rfl
@[simp] theorem beginMeasure_oe (d : AdcDev) (c : AdcChan) (n : Nat) (s : State) : (beginMeasure d c n s).oe = s.oe := rfl
@[simp] theorem beginMeasure_dout (d : AdcDev) (c : AdcChan) (n : Nat) (s : State) : (beginMeasure d c n s).dout = s.dout := rfl
@[simp] theorem beginMeasure_spi (d : AdcDev) (c : AdcChan) (n : Nat) (s : State) : (beginMeasure d c n s).spi = s.spi := rfl
@[simp] theorem beginMeasure_ustep (d : AdcDev) (c : AdcChan) (n : Nat) (s : State) : (beginMeasure d c n s).ustep = s.ustep := rfl
@[simp] theorem beginMeasure_prio (d : AdcDev) (c : AdcChan) (n : Nat) (s : State) : (beginMeasure d c n s).prio = s.prio := rfl
@[simp] theorem beginMeasure_prioFails (d : AdcDev) (c : AdcChan) (n : Nat) (s : State) : (beginMeasure d c n s).prioFails = s.prioFails := rfl
@[simp] theorem beginMeasure_st (d : AdcDev) (c : AdcChan) (n : Nat) (s : State) : (beginMeasure d c n s).st = { s.st with n := n, dev := d, chan := c } := rfl
@[simp] theorem beginMeasure_seq (d : AdcDev) (c : AdcChan) (n : Nat) (s : State) : (beginMeasure d c n s).seq = s.seq := rfl
@[simp] theorem beginMeasure_deadline (d : AdcDev) (c : AdcChan) (n : Nat) (s : State) : (beginMeasure d c n s).deadline = s.deadline := rfl
@[simp] theorem beginMeasure_fault (d : AdcDev) (c : AdcChan) (n : Nat) (s : State) : (beginMeasure d c n s).fault = s.fault := rfl
@[simp] theorem beginMeasure_clk (d : AdcDev) (c : AdcChan) (n : Nat) (s : State) : (beginMeasure d c n s).clk = s.clk := rfl
@[simp] theorem beginMeasure_env (d : AdcDev) (c : AdcChan) (n : Nat) (s : State) : (beginMeasure d c n s).env = s.env := rfl
@[simp] theorem beginMeasure_host (d : AdcDev) (c : AdcChan) (n : Nat) (s : State) : (beginMeasure d c n s).host = s.host := rfl
@[simp] theorem beginMeasure_out (d : AdcDev) (c : AdcChan) (n : Nat) (s : State) : (beginMeasure d c n s).out = s.out := rfl
@[simp] theorem beginMeasure_trace (d : AdcDev) (c : AdcChan) (n : Nat) (s : State) : (beginMeasure d c n s).trace = s.trace := rfl

@[simp] theorem storeSample_cfg (i : Nat) (x : Code) (s : State) : (storeSample i x s).cfg = s.cfg := rfl
@[simp] theorem storeSample_sig (i : Nat) (x : Code) (s : State) : (storeSample i x s).sig = s.sig := rfl
@[simp] theorem storeSample_lc (i : Nat) (x : Code) (s : State) : (storeSample i x s).lc = s.lc := rfl
@[simp] theorem storeSample_oe (i : Nat) (x : Code) (s : State) : (storeSample i x s).oe = s.oe := rfl
@[simp] theorem storeSample_dout (i : Nat) (x : Code) (s : State) : (storeSample i x s).dout = s.dout := rfl
@[simp] theorem storeSample_spi (i : Nat) (x : Code) (s : State) : (storeSample i x s).spi = s.spi := rfl
@[simp] theorem storeSample_ustep (i : Nat) (x : Code) (s : State) : (storeSample i x s).ustep = s.ustep := rfl
@[simp] theorem storeSample_prio (i : Nat) (x : Code) (s : State) : (storeSample i x s).prio = s.prio := rfl
@[simp] theorem storeSample_prioFails (i : Nat) (x : Code) (s : State) : (storeSample i x s).prioFails = s.prioFails := rfl
@[simp] theorem storeSample_st (i : Nat) (x : Code) (s : State) : (storeSample i x s).st = { s.st with buf := s.st.buf.take i ++ x :: s.st.buf.drop (i + 1) } := rfl
@[simp] theorem storeSample_seq (i : Nat) (x : Code) (s : State) : (storeSample i x s).seq = s.seq := rfl
@[simp] theorem storeSample_deadline (i : Nat) (x : Code) (s : State) : (storeSample i x s).deadline = s.deadline := rfl
@[simp] theorem storeSample_fault (i : Nat) (x : Code) (s : State) : (storeSample i x s).fault = s.fault := rfl
@[simp] theorem storeSample_clk (i : Nat) (x : Code) (s : State) : (storeSample i x s).clk = s.clk := rfl
@[simp] theorem storeSample_env (i : Nat) (x : Code) (s : State) : (storeSample i x s).env = s.env := rfl
@[simp] theorem storeSample_host (i : Nat) (x : Code) (s : State) : (storeSample i x s).host = s.host := rfl
@[simp] theorem storeSample_out (i : Nat) (x : Code) (s : State) : (storeSample i x s).out = s.out := rfl
@[simp] theorem storeSample_trace (i : Nat) (x : Code) (s : State) : (storeSample i x s).trace = s.trace := rfl

@[simp] theorem updateStats_cfg (g : Stats → Stats) (s : State) : (updateStats g s).cfg = s.cfg := rfl
@[simp] theorem updateStats_sig (g : Stats → Stats) (s : State) : (updateStats g s).sig = s.sig := rfl
@[simp] theorem updateStats_lc (g : Stats → Stats) (s : State) : (updateStats g s).lc = s.lc := rfl
@[simp] theorem updateStats_oe (g : Stats → Stats) (s : State) : (updateStats g s).oe = s.oe := rfl
@[simp] theorem updateStats_dout (g : Stats → Stats) (s : State) : (updateStats g s).dout = s.dout := rfl
@[simp] theorem updateStats_spi (g : Stats → Stats) (s : State) : (updateStats g s).spi = s.spi := rfl
@[simp] theorem updateStats_ustep (g : Stats → Stats) (s : State) : (updateStats g s).ustep = s.ustep := rfl
@[simp] theorem updateStats_prio (g : Stats → Stats) (s : State) : (updateStats g s).prio = s.prio := rfl
@[simp] theorem updateStats_prioFails (g : Stats → Stats) (s : State) : (updateStats g s).prioFails = s.prioFails := rfl
@[simp] theorem updateStats_st (g : Stats → Stats) (s : State) : (updateStats g s).st = g s.st := rfl
@[simp] theorem updateStats_seq (g : Stats → Stats) (s : State) : (updateStats g s).seq = s.seq := rfl
@[simp] theorem updateStats_deadline (g : Stats → Stats) (s : State) : (updateStats g s).deadline = s.deadline := rfl
@[simp] theorem updateStats_fault (g : Stats → Stats) (s : State) : (updateStats g s).fault = s.fault := rfl
@[simp] theorem updateStats_clk (g : Stats → Stats) (s : State) : (updateStats g s).clk = s.clk := rfl
@[simp] theorem updateStats_env (g : Stats → Stats) (s : State) : (updateStats g s).env = s.env := rfl
@[simp] theorem updateStats_host (g : Stats → Stats) (s : State) : (updateStats g s).host = s.host := rfl
@[simp] theorem updateStats_out (g : Stats → Stats) (s : State) : (updateStats g s).out = s.out := rfl
@[simp] theorem updateStats_trace (g : Stats → Stats) (s : State) : (updateStats g s).trace = s.trace := rfl

@[simp] theorem setLatch_oe_oe (k : BankIdx) (v : Word) (s : State) :
    (setLatch k .oe v s).oe = s.oe.set k.val v k.isLt := rfl
@[simp] theorem setLatch_oe_dout (k : BankIdx) (v : Word) (s : State) : (setLatch k .oe v s).dout = s.dout := rfl
@[simp] theorem setLatch_dout_oe (k : BankIdx) (v : Word) (s : State) : (setLatch k .dout v s).oe = s.oe := rfl
@[simp] theorem setLatch_dout_dout (k : BankIdx) (v : Word) (s : State) :
    (setLatch k .dout v s).dout = s.dout.set k.val v k.isLt := rfl

@[simp] theorem sampled_oe_eq (s : State) : sampled .oe s = s := rfl
@[simp] theorem sampled_dout_eq (s : State) : sampled .dout s = s := rfl
@[simp] theorem sampled_din_eq (s : State) : sampled .din s = tookPads s := rfl

/-- No register access, transfer, clock reading or priority request changes another script. -/
@[simp] theorem sampled_env_accessOk (r : Reg) (s : State) : (sampled r s).env.accessOk = s.env.accessOk := by cases r <;> rfl
@[simp] theorem sampled_env_ticks (r : Reg) (s : State) : (sampled r s).env.ticks = s.env.ticks := by cases r <;> rfl
@[simp] theorem sampled_env_xferOk (r : Reg) (s : State) : (sampled r s).env.xferOk = s.env.xferOk := by cases r <;> rfl
@[simp] theorem sampled_env_rx (r : Reg) (s : State) : (sampled r s).env.rx = s.env.rx := by cases r <;> rfl

/-- Priority elevation: granted or not, only `PRIO` and `PRIO_FAILS` differ (spec/45_motion.md R248). -/
theorem elevate_prio (s : State) : (elevate s).prio = if prioGranted s then .elevated else s.prio := by
  unfold elevate; split <;> simp_all [logEvent, tookPrio]

theorem elevate_prioFails (s : State) :
    (elevate s).prioFails = if prioGranted s then s.prioFails else s.prioFails + 1 := by
  unfold elevate; split <;> simp_all [logEvent, tookPrio]

end Sys2Proof.Machine
end

