-- ==== Sys2Proof/Laws/Ops.lean ====
section
/-! SUPPORT. What each shared operation can do, said once: its result when the platform grants it, and everything it can leave
otherwise. -/

namespace Sys2Proof.Machine

/-! ### Sequencing -/

@[simp] theorem andThen_done {α β : Type} (a : α) (s : State) (k : α → State → Res β) : (Res.done a s).andThen k = k a s := rfl
@[simp] theorem andThen_rejected {α β : Type} (r : Reason) (s : State) (k : α → State → Res β) :
    (Res.rejected r s : Res α).andThen k = .rejected r s := rfl
@[simp] theorem andThen_raised {α β : Type} (f : Raised) (s : State) (k : α → State → Res β) :
    (Res.raised f s : Res α).andThen k = .raised f s := rfl
@[simp] theorem finish_done (ws : List Word) (s : State) : finish (.done ws s) = .next (respond (.ok ws) s) := rfl
@[simp] theorem finish_rejected (r : Reason) (s : State) : finish (.rejected r s) = .next (respond (.rejected r) s) := rfl
@[simp] theorem finish_raised (f : Raised) (s : State) : finish (.raised f s) = .next (takeFault f s) := rfl

/-- Every operation ends in a next state (spec/00_scope.md R11). -/
theorem finish_next (r : Res (List Word)) : finish r = .next (complete r) := rfl

/-! ### Scripts -/

@[simp] theorem script_drop_zero {α : Type} (q : Script α) : q.drop 0 = q := rfl
@[simp] theorem script_drop_succ {α : Type} (n : Nat) (q : Script α) : q.drop (n + 1) = q.tail.drop n := rfl
theorem script_tail_drop {α : Type} (n : Nat) (q : Script α) : (q.drop n).tail = q.drop (n + 1) := by
  induction n generalizing q with
  | zero => rfl
  | succ n ih => simp only [script_drop_succ]; exact ih q.tail
theorem script_drop_drop {α : Type} (m n : Nat) (q : Script α) : (q.drop m).drop n = q.drop (m + n) := by
  induction m generalizing q with
  | zero => simp
  | succ m ih => rw [script_drop_succ, ih, Nat.add_right_comm, script_drop_succ]

@[simp] theorem script_grants_zero (free : Nat → Bool) (q : Script Bool) : q.grants free 0 = true := rfl
theorem script_grants_succ (free : Nat → Bool) (n : Nat) (q : Script Bool) :
    q.grants free (n + 1) = true ↔ q.head free = true ∧ q.tail.grants free n = true := by
  simp [Script.grants]
theorem script_grants_add (free : Nat → Bool) (m n : Nat) (q : Script Bool) :
    q.grants free (m + n) = true ↔ q.grants free m = true ∧ (q.drop m).grants free n = true := by
  induction m generalizing q with
  | zero => simp
  | succ m ih => rw [Nat.add_right_comm, script_grants_succ, script_grants_succ, ih, script_drop_succ, and_assoc]

/-- The first answer of a script that is not favourable. -/
theorem script_refused {free : Nat → Bool} {k : Nat} {q : Script Bool} (h : q.grants free k = true)
    (hn : ¬ q.grants free (k + 1) = true) : (q.drop k).head free = false := by
  rw [script_grants_add free k 1, script_grants_succ] at hn
  simpa [h] using hn

/-- Fewer answers are favourable when more are. -/
theorem script_grants_le {free : Nat → Bool} {m n : Nat} (hmn : m ≤ n) {q : Script Bool} (h : q.grants free n = true) :
    q.grants free m = true := by
  obtain ⟨d, rfl⟩ := Nat.exists_eq_add_of_le hmn
  exact ((script_grants_add free m d q).1 h).1

theorem accessOk_eq (s : State) : accessOk s = s.env.accessOk.head Config.freeAccessOk := rfl
theorem xferOk_eq (s : State) : xferOk s = s.env.xferOk.head Config.freeXferOk := rfl

@[simp] theorem script_total_zero (free : Nat → Nat) (q : Script Nat) : q.total free 0 = 0 := rfl
@[simp] theorem script_total_succ (free : Nat → Nat) (n : Nat) (q : Script Nat) :
    q.total free (n + 1) = q.head free + q.tail.total free n := rfl
theorem script_total_add (free : Nat → Nat) (m n : Nat) (q : Script Nat) :
    q.total free (m + n) = q.total free m + (q.drop m).total free n := by
  induction m generalizing q with
  | zero => simp
  | succ m ih => rw [Nat.add_right_comm, script_total_succ, ih, script_total_succ, script_drop_succ, Nat.add_assoc]

/-! ### Time -/

@[simp] theorem later_cfg (n : Nat) (s : State) : (later n s).cfg = s.cfg := rfl
@[simp] theorem later_sig (n : Nat) (s : State) : (later n s).sig = s.sig := rfl
@[simp] theorem later_lc (n : Nat) (s : State) : (later n s).lc = s.lc := rfl
@[simp] theorem later_oe (n : Nat) (s : State) : (later n s).oe = s.oe := rfl
@[simp] theorem later_dout (n : Nat) (s : State) : (later n s).dout = s.dout := rfl
@[simp] theorem later_spi (n : Nat) (s : State) : (later n s).spi = s.spi := rfl
@[simp] theorem later_ustep (n : Nat) (s : State) : (later n s).ustep = s.ustep := rfl
@[simp] theorem later_prio (n : Nat) (s : State) : (later n s).prio = s.prio := rfl
@[simp] theorem later_prioFails (n : Nat) (s : State) : (later n s).prioFails = s.prioFails := rfl
@[simp] theorem later_st (n : Nat) (s : State) : (later n s).st = s.st := rfl
@[simp] theorem later_seq (n : Nat) (s : State) : (later n s).seq = s.seq := rfl
@[simp] theorem later_deadline (n : Nat) (s : State) : (later n s).deadline = s.deadline := rfl
@[simp] theorem later_fault (n : Nat) (s : State) : (later n s).fault = s.fault := rfl
@[simp] theorem later_host (n : Nat) (s : State) : (later n s).host = s.host := rfl
@[simp] theorem later_out (n : Nat) (s : State) : (later n s).out = s.out := rfl
@[simp] theorem later_trace (n : Nat) (s : State) : (later n s).trace = s.trace := rfl
@[simp] theorem later_clk (n : Nat) (s : State) : (later n s).clk = s.clk + s.env.gaps.total Config.freeGaps n := rfl
@[simp] theorem later_env (n : Nat) (s : State) :
    (later n s).env = { s.env with gaps := s.env.gaps.drop n } := rfl

@[simp] theorem accessed_cfg (n : Nat) (s : State) : (accessed n s).cfg = s.cfg := rfl
@[simp] theorem accessed_sig (n : Nat) (s : State) : (accessed n s).sig = s.sig := rfl
@[simp] theorem accessed_lc (n : Nat) (s : State) : (accessed n s).lc = s.lc := rfl
@[simp] theorem accessed_oe (n : Nat) (s : State) : (accessed n s).oe = s.oe := rfl
@[simp] theorem accessed_dout (n : Nat) (s : State) : (accessed n s).dout = s.dout := rfl
@[simp] theorem accessed_spi (n : Nat) (s : State) : (accessed n s).spi = s.spi := rfl
@[simp] theorem accessed_ustep (n : Nat) (s : State) : (accessed n s).ustep = s.ustep := rfl
@[simp] theorem accessed_prio (n : Nat) (s : State) : (accessed n s).prio = s.prio := rfl
@[simp] theorem accessed_prioFails (n : Nat) (s : State) : (accessed n s).prioFails = s.prioFails := rfl
@[simp] theorem accessed_st (n : Nat) (s : State) : (accessed n s).st = s.st := rfl
@[simp] theorem accessed_seq (n : Nat) (s : State) : (accessed n s).seq = s.seq := rfl
@[simp] theorem accessed_deadline (n : Nat) (s : State) : (accessed n s).deadline = s.deadline := rfl
@[simp] theorem accessed_fault (n : Nat) (s : State) : (accessed n s).fault = s.fault := rfl
@[simp] theorem accessed_host (n : Nat) (s : State) : (accessed n s).host = s.host := rfl
@[simp] theorem accessed_out (n : Nat) (s : State) : (accessed n s).out = s.out := rfl
@[simp] theorem accessed_trace (n : Nat) (s : State) : (accessed n s).trace = s.trace := rfl
@[simp] theorem accessed_clk (n : Nat) (s : State) : (accessed n s).clk = s.clk + s.env.gaps.total Config.freeGaps n := rfl
@[simp] theorem accessed_env (n : Nat) (s : State) :
    (accessed n s).env = { s.env with accessOk := s.env.accessOk.drop n, gaps := s.env.gaps.drop n } := rfl

@[simp] theorem transferred_cfg (n : Nat) (s : State) : (transferred n s).cfg = s.cfg := rfl
@[simp] theorem transferred_sig (n : Nat) (s : State) : (transferred n s).sig = s.sig := rfl
@[simp] theorem transferred_lc (n : Nat) (s : State) : (transferred n s).lc = s.lc := rfl
@[simp] theorem transferred_oe (n : Nat) (s : State) : (transferred n s).oe = s.oe := rfl
@[simp] theorem transferred_dout (n : Nat) (s : State) : (transferred n s).dout = s.dout := rfl
@[simp] theorem transferred_spi (n : Nat) (s : State) : (transferred n s).spi = s.spi := rfl
@[simp] theorem transferred_ustep (n : Nat) (s : State) : (transferred n s).ustep = s.ustep := rfl
@[simp] theorem transferred_prio (n : Nat) (s : State) : (transferred n s).prio = s.prio := rfl
@[simp] theorem transferred_prioFails (n : Nat) (s : State) : (transferred n s).prioFails = s.prioFails := rfl
@[simp] theorem transferred_st (n : Nat) (s : State) : (transferred n s).st = s.st := rfl
@[simp] theorem transferred_seq (n : Nat) (s : State) : (transferred n s).seq = s.seq := rfl
@[simp] theorem transferred_deadline (n : Nat) (s : State) : (transferred n s).deadline = s.deadline := rfl
@[simp] theorem transferred_fault (n : Nat) (s : State) : (transferred n s).fault = s.fault := rfl
@[simp] theorem transferred_host (n : Nat) (s : State) : (transferred n s).host = s.host := rfl
@[simp] theorem transferred_out (n : Nat) (s : State) : (transferred n s).out = s.out := rfl
@[simp] theorem transferred_trace (n : Nat) (s : State) : (transferred n s).trace = s.trace := rfl
@[simp] theorem transferred_clk (n : Nat) (s : State) : (transferred n s).clk = s.clk + s.env.gaps.total Config.freeGaps n := rfl
@[simp] theorem transferred_env (n : Nat) (s : State) :
    (transferred n s).env = { s.env with xferOk := s.env.xferOk.drop n, gaps := s.env.gaps.drop n } := rfl

theorem later_clk_ge (n : Nat) (s : State) : s.clk ≤ (later n s).clk := Nat.le_add_right _ _

/-- Time passing once. -/
theorem elapse_eq (s : State) : elapse s = later 1 s := rfl
theorem tookAccess_eq (s : State) : tookAccess s = accessed 1 s := rfl
theorem tookXfer_eq (s : State) : tookXfer s = transferred 1 s := rfl

theorem accessed_accessed (m n : Nat) (s : State) : accessed n (accessed m s) = accessed (m + n) s := by
  simp [accessed, later, script_drop_drop, script_total_add, Nat.add_assoc]

/-! ### Operands -/

theorem lineOfInt_some {idx : Int} (h : 0 ≤ idx) (h' : idx < 192) : lineOfInt idx = some ⟨idx.toNat, by omega⟩ := by
  simp [lineOfInt, h, h']

@[simp] theorem lineOfInt_line (g : Line) : lineOfInt (g.val : Int) = some g := by
  have hg := g.isLt
  simp only [lineOfInt]
  rw [dif_pos (by omega)]
  simp

theorem lineOfInt_none {idx : Int} (h : idx < 0 ∨ 192 ≤ idx) : lineOfInt idx = none := by
  simp only [lineOfInt]
  rw [dif_neg (by omega)]

/-- `ResolvePin` of a line number (spec/40_gpio_register_access.md R132). -/
@[simp] theorem resolvePin_line (g : Line) (s : State) : resolvePin (g.val : Int) s = .done g s := by simp [resolvePin]

/-- `ResolvePin` outside 0..191 (spec/40_gpio_register_access.md R132). -/
theorem resolvePin_out {idx : Int} (h : idx < 0 ∨ 192 ≤ idx) (s : State) :
    resolvePin idx s = .raised (.invalidAddress idx) s := by simp [resolvePin, lineOfInt_none h]

/-- `CheckIndex` in range (spec/41_pin_layout.md R164). -/
theorem checkIndex_in {idx : Field8} {n : Nat} (h : idx.toNat < n) (s : State) :
    checkIndex idx n s = .done ⟨idx.toNat, h⟩ s := by simp [checkIndex, h]

/-- `CheckIndex` out of range (spec/41_pin_layout.md R164). -/
theorem checkIndex_out {idx : Field8} {n : Nat} (h : n ≤ idx.toNat) (s : State) :
    checkIndex idx n s = .raised (.invalidAddress idx.toNat) s := by
  simp only [checkIndex]; rw [dif_neg (by omega)]

/-! ### Register accesses -/

/-- The word a read-modify-write of a line's bit writes. -/
def rmwWord (r : Vector Word 6) (g : Line) (v : Bool) : Word := withBit (r.get (bankOf g)) (maskOf g) v

/-- The register file after a read-modify-write of a line's bit. -/
def rmwFile (r : Vector Word 6) (g : Line) (v : Bool) : Vector Word 6 :=
  r.set (bankOf g).val (rmwWord r g v) (bankOf g).isLt

/-- The target line's bit takes the value, every other line keeps its bit (spec/40_gpio_register_access.md R138). -/
theorem lineBit_rmwFile (r : Vector Word 6) (g h : Line) (v : Bool) :
    lineBit (rmwFile r g v) h = if h = g then v else lineBit r h := lineBit_set_withBit r g h v

/-- A read-modify-write of one register that the platform grants: what it leaves. -/
def rmwDone (l : Latch) (g : Line) (v : Bool) (s : State) : State :=
  match l with
  | .oe =>
    { accessed 2 s with
      oe := rmwFile s.oe g v
      trace := s.trace ++
        [.read (regAddr s.cfg (bankOf g) .oe) (s.oe.get (bankOf g)), .write (regAddr s.cfg (bankOf g) .oe) (rmwWord s.oe g v)] }
  | .dout =>
    { accessed 2 s with
      dout := rmwFile s.dout g v
      trace := s.trace ++
        [.read (regAddr s.cfg (bankOf g) .dout) (s.dout.get (bankOf g)),
          .write (regAddr s.cfg (bankOf g) .dout) (rmwWord s.dout g v)] }

@[simp] theorem rmwDone_cfg (l : Latch) (g : Line) (v : Bool) (s : State) : (rmwDone l g v s).cfg = s.cfg := by cases l <;> rfl
@[simp] theorem rmwDone_sig (l : Latch) (g : Line) (v : Bool) (s : State) : (rmwDone l g v s).sig = s.sig := by cases l <;> rfl
@[simp] theorem rmwDone_lc (l : Latch) (g : Line) (v : Bool) (s : State) : (rmwDone l g v s).lc = s.lc := by cases l <;> rfl
@[simp] theorem rmwDone_spi (l : Latch) (g : Line) (v : Bool) (s : State) : (rmwDone l g v s).spi = s.spi := by cases l <;> rfl
@[simp] theorem rmwDone_ustep (l : Latch) (g : Line) (v : Bool) (s : State) : (rmwDone l g v s).ustep = s.ustep := by cases l <;> rfl
@[simp] theorem rmwDone_prio (l : Latch) (g : Line) (v : Bool) (s : State) : (rmwDone l g v s).prio = s.prio := by cases l <;> rfl
@[simp] theorem rmwDone_prioFails (l : Latch) (g : Line) (v : Bool) (s : State) : (rmwDone l g v s).prioFails = s.prioFails := by cases l <;> rfl
@[simp] theorem rmwDone_st (l : Latch) (g : Line) (v : Bool) (s : State) : (rmwDone l g v s).st = s.st := by cases l <;> rfl
@[simp] theorem rmwDone_seq (l : Latch) (g : Line) (v : Bool) (s : State) : (rmwDone l g v s).seq = s.seq := by cases l <;> rfl
@[simp] theorem rmwDone_deadline (l : Latch) (g : Line) (v : Bool) (s : State) : (rmwDone l g v s).deadline = s.deadline := by cases l <;> rfl
@[simp] theorem rmwDone_fault (l : Latch) (g : Line) (v : Bool) (s : State) : (rmwDone l g v s).fault = s.fault := by cases l <;> rfl
@[simp] theorem rmwDone_host (l : Latch) (g : Line) (v : Bool) (s : State) : (rmwDone l g v s).host = s.host := by cases l <;> rfl
@[simp] theorem rmwDone_out (l : Latch) (g : Line) (v : Bool) (s : State) : (rmwDone l g v s).out = s.out := by cases l <;> rfl
@[simp] theorem rmwDone_clk (l : Latch) (g : Line) (v : Bool) (s : State) : (rmwDone l g v s).clk = (accessed 2 s).clk := by
  cases l <;> rfl
@[simp] theorem rmwDone_env (l : Latch) (g : Line) (v : Bool) (s : State) : (rmwDone l g v s).env = (accessed 2 s).env := by
  cases l <;> rfl

/-- What a failed access leaves: everything but the scripts, the time that passed and the history (spec/60_exceptions.md R306,
R313). -/
structure OnlyAccessTried (s t : State) : Prop where
  eq : t = { s with clk := t.clk, env := { s.env with accessOk := t.env.accessOk, gaps := t.env.gaps }, trace := t.trace }
  clock : s.clk ≤ t.clk

theorem memRead_granted {s : State} (h : accessOk s = true) (k : BankIdx) (r : Reg) :
    memRead k r s = .done (regValue k r s)
      (logEvent (.read (regAddr s.cfg k r) (regValue k r s)) (sampled r (tookAccess s))) := by
  simp [memRead, h]

theorem memRead_refused {s : State} (h : accessOk s = false) (k : BankIdx) (r : Reg) :
    memRead k r s = .raised (.deviceIo (.register (regAddr s.cfg k r)))
      (logEvent (.accessFailed (regAddr s.cfg k r)) (tookAccess s)) := by
  simp [memRead, h]

theorem memWrite_granted {s : State} (h : accessOk s = true) (k : BankIdx) (l : Latch) (v : Word) :
    memWrite k l v s = .done () (setLatch k l v (logEvent (.write (regAddr s.cfg k l.toReg) v) (tookAccess s))) := by
  simp [memWrite, h]

theorem memWrite_refused {s : State} (h : accessOk s = false) (k : BankIdx) (l : Latch) (v : Word) :
    memWrite k l v s = .raised (.deviceIo (.register (regAddr s.cfg k l.toReg)))
      (logEvent (.accessFailed (regAddr s.cfg k l.toReg)) (tookAccess s)) := by
  simp [memWrite, h]

/-- The read-modify-write when both accesses are granted (spec/40_gpio_register_access.md R136). -/
theorem rmwBit_granted {s : State} (h : accessesGranted 2 s) (l : Latch) (g : Line) (v : Bool) :
    rmwBit (bankOf g) l (maskOf g) v s = .done () (rmwDone l g v s) := by
  obtain ⟨h1, h2⟩ := (script_grants_succ _ _ _).1 h
  obtain ⟨h2, -⟩ := (script_grants_succ _ _ _).1 h2
  unfold rmwBit
  rw [memRead_granted h1, andThen_done, memWrite_granted]
  · cases l <;>
      simp [rmwDone, rmwFile, rmwWord, Latch.toReg, setLatch, logEvent, tookAccess_eq, sampled, regValue, Nat.add_assoc]
  · cases l <;> exact h2

/-- A read-modify-write of one register whose read (`k` = 0) or write (`k` = 1) the platform refuses: what it leaves. -/
def rmwRefused (l : Latch) (g : Line) (k : Nat) (s : State) : State :=
  { accessed (k + 1) s with
    trace := s.trace ++ ((if k = 0 then [] else [.read (regAddr s.cfg (bankOf g) l.toReg) ((latchFile l s).get (bankOf g))])
      ++ [.accessFailed (regAddr s.cfg (bankOf g) l.toReg)]) }

/-- The read-modify-write when its access number `k` is the first refused (spec/40_gpio_register_access.md R136,
spec/60_exceptions.md R306, R313). -/
theorem rmwBit_refused {k : Nat} {s : State} (hk : k < 2) (h : accessesGranted k s) (hn : ¬ accessesGranted (k + 1) s)
    (l : Latch) (g : Line) (v : Bool) :
    rmwBit (bankOf g) l (maskOf g) v s =
      .raised (.deviceIo (.register (regAddr s.cfg (bankOf g) l.toReg))) (rmwRefused l g k s) := by
  have hr := script_refused h hn
  obtain rfl | rfl : k = 0 ∨ k = 1 := by omega
  · rw [rmwBit, memRead_refused hr, andThen_raised]
    simp [rmwRefused, logEvent, tookAccess_eq]
  · obtain ⟨h1, -⟩ := (script_grants_succ _ _ _).1 h
    rw [rmwBit, memRead_granted h1, andThen_done, memWrite_refused]
    · cases l <;> simp [rmwRefused, logEvent, tookAccess_eq, sampled, regValue, latchFile, Latch.toReg, Nat.add_assoc]
    · cases l <;> exact hr

/-- The read-modify-write, whatever the platform answers (spec/40_gpio_register_access.md R136, spec/60_exceptions.md R306). -/
theorem rmwBit_cases (l : Latch) (g : Line) (v : Bool) (s : State) :
    (accessesGranted 2 s ∧ rmwBit (bankOf g) l (maskOf g) v s = .done () (rmwDone l g v s)) ∨
    ∃ t, rmwBit (bankOf g) l (maskOf g) v s = .raised (.deviceIo (.register (regAddr s.cfg (bankOf g) l.toReg))) t ∧
      OnlyAccessTried s t := by
  cases h1 : accessOk s
  · right
    refine ⟨logEvent (.accessFailed (regAddr s.cfg (bankOf g) l.toReg)) (tookAccess s), ?_, ⟨rfl, Nat.le_add_right _ _⟩⟩
    unfold rmwBit
    rw [memRead_refused h1, andThen_raised]
  · cases h2 : accessOk (tookAccess s)
    · right
      refine ⟨logEvent (.accessFailed (regAddr s.cfg (bankOf g) l.toReg)) (tookAccess (logEvent (.read
        (regAddr s.cfg (bankOf g) l.toReg) (regValue (bankOf g) l.toReg s)) (tookAccess s))), ?_, ⟨rfl, ?_⟩⟩
      swap
      · exact le_trans (Nat.le_add_right _ _) (Nat.le_add_right _ _)
      unfold rmwBit
      rw [memRead_granted h1, andThen_done, memWrite_refused]
      · cases l <;> rfl
      · cases l <;> exact h2
    · left
      have h : accessesGranted 2 s :=
        (script_grants_succ _ _ _).2 ⟨h1, (script_grants_succ _ _ _).2 ⟨h2, rfl⟩⟩
      exact ⟨h, rmwBit_granted h l g v⟩

/-- `RequireMapped` in state MAPPED and in any other (spec/40_gpio_register_access.md R134). -/
theorem requireMapped_mapped {s : State} (h : s.lc = .mapped) : requireMapped s = .done () s := by simp [requireMapped, h]
theorem requireMapped_unmapped {s : State} (h : s.lc ≠ .mapped) :
    requireMapped s = .raised (.resourceAbsent .gpio) s := by simp [requireMapped, h]

/-- `WriteLevel` when it is granted (spec/40_gpio_register_access.md R137). -/
theorem writeLevel_granted {s : State} (hm : s.lc = .mapped) (h : accessesGranted 2 s) (g : Line) (v : Bool) :
    writeLevel g v s = .done () (rmwDone .dout g v s) := by
  simp [writeLevel, requireMapped_mapped hm, rmwBit_granted h]

/-- `WriteLevel` when its access number `k` is the first refused (spec/40_gpio_register_access.md R137). -/
theorem writeLevel_refused {k : Nat} {s : State} (hm : s.lc = .mapped) (hk : k < 2) (h : accessesGranted k s)
    (hn : ¬ accessesGranted (k + 1) s) (g : Line) (v : Bool) :
    writeLevel g v s = .raised (.deviceIo (.register (regAddr s.cfg (bankOf g) .dout))) (rmwRefused .dout g k s) := by
  rw [writeLevel, requireMapped_mapped hm, andThen_done, rmwBit_refused hk h hn]
  rfl

/-- Two `WriteLevel`s in a row when their access number `k` is the first refused: the second line is written only if the first
was; it may be named by the state after the first. -/
theorem writeLevels_refused {k : Nat} {s : State} (hm : s.lc = .mapped) (hk : k < 4) (h : accessesGranted k s)
    (hn : ¬ accessesGranted (k + 1) s) (g1 : Line) (v1 : Bool) (g2 : State → Line) (v2 : State → Bool) :
    ((writeLevel g1 v1 s).andThen fun _ t => writeLevel (g2 t) (v2 t) t) =
      if k < 2 then .raised (.deviceIo (.register (regAddr s.cfg (bankOf g1) .dout))) (rmwRefused .dout g1 k s)
      else .raised (.deviceIo (.register (regAddr s.cfg (bankOf (g2 (rmwDone .dout g1 v1 s))) .dout)))
        (rmwRefused .dout (g2 (rmwDone .dout g1 v1 s)) (k - 2) (rmwDone .dout g1 v1 s)) := by
  split
  · rw [writeLevel_refused hm (by assumption) h hn, andThen_raised]
  · obtain ⟨j, rfl⟩ := Nat.exists_eq_add_of_le (show 2 ≤ k by omega)
    obtain ⟨h2, h2'⟩ := (script_grants_add _ 2 j _).1 h
    have hn' : ¬ (s.env.accessOk.drop 2).grants Config.freeAccessOk (j + 1) = true := fun h3 =>
      hn ((script_grants_add _ 2 (j + 1) _).2 ⟨h2, h3⟩)
    rw [writeLevel_granted hm h2, andThen_done, Nat.add_sub_cancel_left]
    exact writeLevel_refused (s := rmwDone .dout g1 v1 s) hm (by omega) h2' hn' _ _

/-- `WriteLevel`, everything it can do (spec/40_gpio_register_access.md R137). -/
theorem writeLevel_cases (g : Line) (v : Bool) (s : State) :
    (s.lc = .mapped ∧ accessesGranted 2 s ∧ writeLevel g v s = .done () (rmwDone .dout g v s)) ∨
    (s.lc ≠ .mapped ∧ writeLevel g v s = .raised (.resourceAbsent .gpio) s) ∨
    (s.lc = .mapped ∧ ∃ t, writeLevel g v s = .raised (.deviceIo (.register (regAddr s.cfg (bankOf g) .dout))) t ∧
      OnlyAccessTried s t) := by
  by_cases hm : s.lc = .mapped
  · rcases rmwBit_cases .dout g v s with ⟨h, -⟩ | ⟨t, h, ht⟩
    · exact .inl ⟨hm, h, writeLevel_granted hm h g v⟩
    · exact .inr (.inr ⟨hm, t, by rw [writeLevel, requireMapped_mapped hm, andThen_done, h]; rfl, ht⟩)
  · exact .inr (.inl ⟨hm, by simp [writeLevel, requireMapped_unmapped hm]⟩)

/-- A read of data-in that the platform grants: what it leaves. -/
def readDone (g : Line) (s : State) : State :=
  { accessed 1 s with
    env := { (accessed 1 s).env with pads := s.env.pads.tail }
    trace := s.trace ++ [.read (regAddr s.cfg (bankOf g) .din) (regValue (bankOf g) .din s)] }

/-- `ReadLevel` when it is granted: the line's bit of data-in (spec/40_gpio_register_access.md R135). -/
theorem readLevel_granted {s : State} (hm : s.lc = .mapped) (h : accessOk s = true) (g : Line) :
    readLevel g s = .done (lineLevel g s) (readDone g s) := by
  rw [readLevel, requireMapped_mapped hm, andThen_done, memRead_granted h, andThen_done, and_maskOf_ne_zero]
  rfl

/-- `ReadLevel` when its access is refused: nothing is sampled (spec/40_gpio_register_access.md R135). -/
theorem readLevel_refused {s : State} (hm : s.lc = .mapped) (h : accessOk s = false) (g : Line) :
    readLevel g s = .raised (.deviceIo (.register (regAddr s.cfg (bankOf g) .din)))
      (logEvent (.accessFailed (regAddr s.cfg (bankOf g) .din)) (tookAccess s)) := by
  rw [readLevel, requireMapped_mapped hm, andThen_done, memRead_refused h, andThen_raised]

/-- `ReadLevel`, everything it can do (spec/40_gpio_register_access.md R135). -/
theorem readLevel_cases (g : Line) (s : State) :
    (s.lc = .mapped ∧ accessOk s = true ∧ readLevel g s = .done (lineLevel g s) (readDone g s)) ∨
    (s.lc ≠ .mapped ∧ readLevel g s = .raised (.resourceAbsent .gpio) s) ∨
    (s.lc = .mapped ∧ ∃ t, readLevel g s = .raised (.deviceIo (.register (regAddr s.cfg (bankOf g) .din))) t ∧
      OnlyAccessTried s t) := by
  by_cases hm : s.lc = .mapped
  · cases h : accessOk s
    · exact .inr (.inr ⟨hm, _, readLevel_refused hm h g, ⟨rfl, Nat.le_add_right _ _⟩⟩)
    · exact .inl ⟨hm, rfl, readLevel_granted hm h g⟩
  · exact .inr (.inl ⟨hm, by simp [readLevel, requireMapped_unmapped hm]⟩)

/-- The level of a line: its data-out bit on an output line, its pad on an input line (spec/10_state.md R25, R28). -/
theorem lineLevel_eq (g : Line) (s : State) :
    lineLevel g s = if lineIsInput g s then (padWord (bankOf g) s).getLsbD (bitOf g) else lineBit s.dout g := by
  simp only [lineLevel, regValue, dinValue_getLsbD _ _ _ (bitOf_lt g), lineIsInput, lineBit]
  rfl

/-! ### Transfers -/

/-- A transfer that the platform grants: what it leaves. -/
def xferDone (w : Word) (s : State) : State :=
  { transferred 1 s with
    spi := { s.spi with tx := w, rx := rxWord s }
    env := { (transferred 1 s).env with rx := s.env.rx.tail }
    trace := s.trace ++ [.xfer w (rxWord s)] }

/-- `SpiXfer` when it is granted (spec/42_spi_transactor.md R186). -/
theorem spiXfer_granted {s : State} (hc : s.spi.cfg = .configured) (h : xferOk s = true) (w : Word) :
    spiXfer w s = .done (rxWord s) (xferDone w s) := by
  have h' : xferOk (setTx w s) = true := h
  simp only [spiXfer, requireSpi, hc, if_true, andThen_done, h']
  rfl

/-- `SpiXfer`, everything it can do (spec/42_spi_transactor.md R184, R186). -/
theorem spiXfer_cases (w : Word) (s : State) :
    (s.spi.cfg = .configured ∧ xferOk s = true ∧ spiXfer w s = .done (rxWord s) (xferDone w s)) ∨
    (s.spi.cfg ≠ .configured ∧ spiXfer w s = .raised (.resourceAbsent .spi) s) ∨
    (s.spi.cfg = .configured ∧ xferOk s = false ∧
      spiXfer w s = .raised (.deviceIo .spi)
        { transferred 1 s with
          spi := { s.spi with tx := w }
          trace := s.trace ++ [.xferFailed w] }) := by
  by_cases hc : s.spi.cfg = .configured
  · cases h : xferOk s
    · have h' : xferOk (setTx w s) = false := h
      refine .inr (.inr ⟨hc, rfl, ?_⟩)
      rw [spiXfer, requireSpi, if_pos hc, andThen_done]
      simp only [h', Bool.false_eq_true, if_false]
      rfl
    · exact .inl ⟨hc, rfl, spiXfer_granted hc h w⟩
  · exact .inr (.inl ⟨hc, by simp [spiXfer, requireSpi, hc]⟩)

/-! ### The clock -/

/-- A busy-wait ends at a reading at or past its deadline, and no earlier than it began (spec/45_motion.md R247). -/
theorem spin_ge (deadline clk : Nat) (ds : List Nat) (asked : Nat) :
    deadline ≤ (spin deadline clk ds asked).1 ∧ clk ≤ (spin deadline clk ds asked).1 := by
  induction ds generalizing clk asked with
  | nil => simp only [spin]; omega
  | cons d ds ih =>
    simp only [spin]
    split
    · exact ⟨by assumption, Nat.le_add_right _ _⟩
    · exact ⟨(ih _ _).1, le_trans (Nat.le_add_right _ _) (ih _ _).2⟩

/-- The wait lasts at least `h` ticks and the clock never goes back (spec/45_motion.md R247). -/
theorem busyWait_ge (h : Nat) (s : State) :
    nowValue s + h ≤ (busyWait h s).clk ∧ s.clk ≤ (busyWait h s).clk := by
  have := spin_ge (nowValue s + h) (nowValue s) s.env.ticks.tail.answers s.env.ticks.tail.asked
  have hn : s.clk ≤ nowValue s := Nat.le_add_right _ _
  exact ⟨this.1, by have := this.2; simp only [busyWait, logEvent_clk]; exact le_trans hn this⟩

/-- A busy-wait changes only the clock, DEADLINE, the ticks drawn and the history. -/
theorem busyWait_eq (h : Nat) (s : State) :
    busyWait h s = { s with
      clk := (busyWait h s).clk
      deadline := nowValue s + h
      env := { s.env with ticks := (busyWait h s).env.ticks }
      trace := s.trace ++ [.wait (nowValue s) (nowValue s + h) (busyWait h s).clk] } := rfl

/-- `HalfTicks(F)` is the least number of ticks not shorter than half a period (spec/45_motion.md R246). -/
theorem halfTicks_spec {f : Nat} (hf : 0 < f) (clkHz h : Nat) : halfTicks clkHz f ≤ h ↔ clkHz ≤ h * (2 * f) := by
  unfold halfTicks
  constructor
  · intro hle
    have h1 := Nat.div_add_mod (clkHz + (2 * f - 1)) (2 * f)
    have h2 := Nat.mod_lt (clkHz + (2 * f - 1)) (show 0 < 2 * f by omega)
    have h3 := Nat.mul_le_mul_left (2 * f) hle
    rw [Nat.mul_comm h]
    omega
  · intro hle
    refine Nat.le_of_lt_succ ((Nat.div_lt_iff_lt_mul (by omega)).2 ?_)
    have e : h.succ * (2 * f) = h * (2 * f) + 2 * f := Nat.succ_mul h (2 * f)
    rw [e]
    omega

/-! ### Faults and the end of an operation -/

/-- Fault entry (spec/60_exceptions.md R310). -/
theorem takeFault_device {f : Raised} (h : f.halts = false) (s : State) :
    takeFault f s = respond .deviceFault { s with fault := { s.fault with cause := f.cause, info := some f } } := by
  simp [takeFault, h]

/-- Halt entry (spec/60_exceptions.md R311). -/
theorem takeFault_halt {f : Raised} (h : f.halts = true) (s : State) :
    takeFault f s = { s with
      fault := { cause := f.cause, info := some f, halted := true }, lc := .halted, prio := .normal, out := none } := by
  simp [takeFault, h]

/-! ### Operands and levels, by line -/

/-- `CheckIndex` of an index in range, by the index (spec/41_pin_layout.md R164). -/
theorem checkIndex_fin {n : Nat} (hn : n ≤ 256) (d : Fin n) (s : State) : checkIndex (BitVec.ofNat 8 d.val) n s = .done d s := by
  have hd := d.isLt
  have : (BitVec.ofNat 8 d.val).toNat = d.val := by simp; omega
  rw [checkIndex_in (by omega)]
  exact congrArg (Res.done · s) (Fin.ext this)

/-- A target and an index that name a line (spec/44_power_enable.md R221). -/
theorem powerLine_line {target idx : Field8} {s : State} {g : Line} (h : powerLineOf s.sig target idx = some g) :
    powerLine target idx s = .done g s := by
  unfold powerLineOf at h
  unfold powerLine targetOf
  split at h <;> simp_all [plainTarget]
  all_goals (obtain ⟨h1, h2⟩ := h; rw [checkIndex_in h1]; simp [← h2])

/-- The level a read sees is the line's current level (spec/10_state.md R28). -/
theorem seenLevel_eq (g : Line) (s : State) : seenLevel g s = lineLevel g s := by
  rw [lineLevel_eq]
  rfl

/-- The bits of the 192 lines are all of a stored register file. -/
theorem ext_lineBit {r r' : Vector Word 6} (h : ∀ g, lineBit r g = lineBit r' g) : r = r' := by
  apply Vector.ext
  intro k hk
  apply BitVec.eq_of_getLsbD_eq
  intro j hj
  have := h ⟨32 * k + j, by omega⟩
  have e1 : (32 * k + j) / 32 = k := by omega
  have e2 : (32 * k + j) % 32 = j := by omega
  simpa [lineBit, bankOf, bitOf, e1, e2, Vector.get_eq_getElem] using this

/-- Writes of the bits of two lines commute. -/
theorem rmwFile_comm {g h : Line} (hne : g ≠ h) (r : Vector Word 6) (v w : Bool) :
    rmwFile (rmwFile r g v) h w = rmwFile (rmwFile r h w) g v := by
  apply ext_lineBit
  intro x
  simp only [lineBit_rmwFile]
  grind

end Sys2Proof.Machine
end

