-- ==== Sys2Proof/Laws/Keeps.lean ====
section
/-! SUPPORT. What a part of an operation leaves alone, whatever way it ends: one relation, that it composes, and one lemma for
each shared operation. -/

namespace Sys2Proof.Machine

/-- The special registers, in the groups that operations write together. -/
inductive Special where
  | lc
  | settings
  | holding
  | ustep
  | stats
  | deadline
  | prio
deriving DecidableEq, Repr

/-- `t` differs from `s` in no bit of the register file but those of `bits` and in no special register but those of `sp`; the
clock has not gone back; `seq`, `PRIO`, the draws and the history are not spoken of. -/
structure Keeps (bits : List (Latch × Line)) (sp : List Special) (s t : State) : Prop where
  cfg : t.cfg = s.cfg
  sig : t.sig = s.sig
  host : t.host = s.host
  fault : t.fault = s.fault
  out : t.out = s.out
  file : ∀ l g, (l, g) ∉ bits → lineBit (latchFile l t) g = lineBit (latchFile l s) g
  lc : .lc ∉ sp → t.lc = s.lc
  settings : .settings ∉ sp →
    t.spi.cfg = s.spi.cfg ∧ t.spi.mode = s.spi.mode ∧ t.spi.bits = s.spi.bits ∧ t.spi.speed = s.spi.speed
  holding : .holding ∉ sp → t.spi.tx = s.spi.tx ∧ t.spi.rx = s.spi.rx
  ustep : .ustep ∉ sp → t.ustep = s.ustep
  stats : .stats ∉ sp → t.st = s.st
  deadline : .deadline ∉ sp → t.deadline = s.deadline
  prio : .prio ∉ sp → t.prioFails = s.prioFails
  clock : s.clk ≤ t.clk

namespace Keeps

variable {bits bits' : List (Latch × Line)} {sp sp' : List Special} {s t u : State}

/-- A state that differs only in what is not spoken of. -/
theorem of_quiet (h : t = { s with seq := t.seq, prio := t.prio, clk := t.clk, env := t.env, trace := t.trace })
    (hc : s.clk ≤ t.clk := by first | exact Nat.le_refl _ | exact Nat.le_add_right _ _) : Keeps bits sp s t := by
  rw [h]
  exact ⟨rfl, rfl, rfl, rfl, rfl, fun l _ _ => by cases l <;> rfl, fun _ => rfl, fun _ => ⟨rfl, rfl, rfl, rfl⟩, fun _ => ⟨rfl, rfl⟩,
    fun _ => rfl, fun _ => rfl, fun _ => rfl, fun _ => rfl, hc⟩

theorem refl : Keeps bits sp s s := of_quiet rfl

theorem trans (h : Keeps bits sp s t) (k : Keeps bits sp t u) : Keeps bits sp s u where
  cfg := k.cfg.trans h.cfg
  sig := k.sig.trans h.sig
  host := k.host.trans h.host
  fault := k.fault.trans h.fault
  out := k.out.trans h.out
  file l g m := (k.file l g m).trans (h.file l g m)
  lc m := (k.lc m).trans (h.lc m)
  settings m := ⟨(k.settings m).1.trans (h.settings m).1, (k.settings m).2.1.trans (h.settings m).2.1,
    (k.settings m).2.2.1.trans (h.settings m).2.2.1, (k.settings m).2.2.2.trans (h.settings m).2.2.2⟩
  holding m := ⟨(k.holding m).1.trans (h.holding m).1, (k.holding m).2.trans (h.holding m).2⟩
  ustep m := (k.ustep m).trans (h.ustep m)
  stats m := (k.stats m).trans (h.stats m)
  deadline m := (k.deadline m).trans (h.deadline m)
  prio m := (k.prio m).trans (h.prio m)
  clock := le_trans h.clock k.clock

/-- Leaving more alone is leaving less alone. -/
theorem mono (hb : bits ⊆ bits') (hs : sp ⊆ sp') (h : Keeps bits sp s t) : Keeps bits' sp' s t :=
  { h with
    file := fun l g m => h.file l g fun x => m (hb x)
    lc := fun m => h.lc fun x => m (hs x)
    settings := fun m => h.settings fun x => m (hs x)
    holding := fun m => h.holding fun x => m (hs x)
    ustep := fun m => h.ustep fun x => m (hs x)
    stats := fun m => h.stats fun x => m (hs x)
    deadline := fun m => h.deadline fun x => m (hs x)
    prio := fun m => h.prio fun x => m (hs x) }

theorem set_lc (l : Lifecycle) (m : .lc ∈ sp) : Keeps bits sp s { s with lc := l } :=
  { refl (bits := bits) (sp := sp) (s := s) with lc := fun k => absurd m k }

theorem set_ustep (u : Option UStepMode) (m : .ustep ∈ sp) : Keeps bits sp s { s with ustep := u } :=
  { refl (bits := bits) (sp := sp) (s := s) with ustep := fun k => absurd m k }

theorem set_st (u : Stats) (m : .stats ∈ sp) : Keeps bits sp s { s with st := u } :=
  { refl (bits := bits) (sp := sp) (s := s) with stats := fun k => absurd m k }

theorem set_settings (c : SpiCfg) (a b d : Nat) (m : .settings ∈ sp) :
    Keeps bits sp s { s with spi := { s.spi with cfg := c, mode := a, bits := b, speed := d } } :=
  { refl (bits := bits) (sp := sp) (s := s) with settings := fun k => absurd m k }

end Keeps

/-- Whatever way a part ends, the state it ends in keeps what `Keeps` says. -/
def Res.Keeps {α : Type} (bits : List (Latch × Line)) (sp : List Special) (s : State) : Res α → Prop
  | .done _ t | .rejected _ t | .raised _ t => Machine.Keeps bits sp s t

variable {bits bits' : List (Latch × Line)} {sp sp' : List Special} {s t : State} {α β : Type}

theorem keeps_done {a : α} (h : Keeps bits sp s t) : (Res.done a t).Keeps bits sp s := h
theorem keeps_rejected {r : Reason} (h : Keeps bits sp s t) : (Res.rejected r t : Res α).Keeps bits sp s := h
theorem keeps_raised {f : Raised} (h : Keeps bits sp s t) : (Res.raised f t : Res α).Keeps bits sp s := h

theorem keeps_mono {r : Res α} (hb : bits ⊆ bits') (hs : sp ⊆ sp') (h : r.Keeps bits sp s) : r.Keeps bits' sp' s := by
  cases r <;> exact Keeps.mono hb hs h

/-- A part that goes on from a state that keeps it. -/
theorem keeps_after {r : Res α} (h : Keeps bits sp s t) (k : r.Keeps bits sp t) : r.Keeps bits sp s := by
  cases r <;> exact Keeps.trans h k

/-- Two parts in sequence. -/
theorem keeps_andThen {r : Res α} {k : α → State → Res β} (h : r.Keeps bits sp s)
    (hk : ∀ a t, Keeps bits sp s t → (k a t).Keeps bits sp t) : (r.andThen k).Keeps bits sp s := by
  cases r with
  | done a t => exact keeps_after h (hk a t h)
  | rejected r t => exact h
  | raised f t => exact h

/-! ### The shared operations -/

theorem logEvent_keeps (e : Event) : Keeps bits sp s (logEvent e s) := .of_quiet rfl
theorem enter_keeps (p : Phase) : Keeps bits sp s (enter p s) := .of_quiet rfl
theorem settle_keeps (count : Word) : Keeps bits sp s (settle count s) := .of_quiet rfl
theorem release_keeps : Keeps bits sp s (release s) := .of_quiet rfl
theorem yieldCpu_keeps : Keeps bits sp s (yieldCpu s) := .of_quiet rfl

theorem elevate_keeps (h : .prio ∈ sp) : Keeps bits sp s (elevate s) := by
  have : elevate s =
      { s with
        prio := (elevate s).prio, prioFails := (elevate s).prioFails, env := (elevate s).env, trace := (elevate s).trace } := by
    unfold elevate; split <;> rfl
  rw [this]
  exact { Keeps.refl (bits := bits) (sp := sp) (s := s) with prio := fun m => absurd h m }

theorem busyWait_keeps (h : Nat) (m : .deadline ∈ sp) : Keeps bits sp s (busyWait h s) := by
  have hc := (busyWait_ge h s).2
  rw [busyWait_eq]
  exact { Keeps.refl (bits := bits) (sp := sp) (s := s) with deadline := fun k => absurd m k, clock := hc }

theorem requireMapped_keeps : (requireMapped s).Keeps bits sp s := by
  unfold requireMapped; split <;> exact .refl

theorem resolvePin_keeps (idx : Int) : (resolvePin idx s).Keeps bits sp s := by
  unfold resolvePin; split <;> exact .refl

theorem checkIndex_keeps (idx : Field8) (n : Nat) : (checkIndex idx n s).Keeps bits sp s := by
  unfold checkIndex; split <;> exact .refl

theorem plainTarget_keeps (line : Line) (idx : Field8) : (plainTarget line idx s).Keeps bits sp s := by
  unfold plainTarget; split <;> exact .refl

theorem powerLine_keeps (target idx : Field8) : (powerLine target idx s).Keeps bits sp s := by
  unfold powerLine
  split
  · exact .refl
  · exact keeps_andThen (checkIndex_keeps _ _) fun _ _ _ => .refl
  · exact keeps_andThen (checkIndex_keeps _ _) fun _ _ _ => .refl
  all_goals exact plainTarget_keeps _ _

theorem memRead_keeps (k : BankIdx) (r : Reg) : (memRead k r s).Keeps bits sp s := by
  unfold memRead
  split
  · cases r <;> exact .of_quiet rfl
  · exact .of_quiet rfl

theorem OnlyAccessTried.keeps (h : OnlyAccessTried s t) : Keeps bits sp s t := by
  refine .of_quiet ?_ h.clock
  rw [h.eq]

theorem rmwDone_keeps (l : Latch) (g : Line) (v : Bool) (h : (l, g) ∈ bits) : Keeps bits sp s (rmwDone l g v s) := by
  cases l
  · refine { Keeps.refl (bits := bits) (sp := sp) (s := s) with clock := Nat.le_add_right _ _, file := fun l' g' m => ?_ }
    cases l'
    · refine (lineBit_rmwFile s.oe g g' v).trans (if_neg ?_)
      rintro rfl
      exact m h
    · rfl
  · refine { Keeps.refl (bits := bits) (sp := sp) (s := s) with clock := Nat.le_add_right _ _, file := fun l' g' m => ?_ }
    cases l'
    · rfl
    · refine (lineBit_rmwFile s.dout g g' v).trans (if_neg ?_)
      rintro rfl
      exact m h

theorem rmwBit_keeps (l : Latch) (g : Line) (v : Bool) (h : (l, g) ∈ bits) :
    (rmwBit (bankOf g) l (maskOf g) v s).Keeps bits sp s := by
  rcases rmwBit_cases l g v s with ⟨-, e⟩ | ⟨t, e, ht⟩ <;> rw [e]
  · exact rmwDone_keeps l g v h
  · exact ht.keeps

theorem writeLevel_keeps (g : Line) (v : Bool) (h : (.dout, g) ∈ bits) : (writeLevel g v s).Keeps bits sp s :=
  keeps_andThen requireMapped_keeps fun _ _ _ => rmwBit_keeps .dout g v h

theorem readLevel_keeps (g : Line) : (readLevel g s).Keeps bits sp s :=
  keeps_andThen requireMapped_keeps fun _ _ _ => keeps_andThen (memRead_keeps _ _) fun _ _ _ => .refl

theorem spiXfer_keeps (w : Word) (h : .holding ∈ sp) : (spiXfer w s).Keeps bits sp s := by
  rcases spiXfer_cases w s with ⟨-, -, e⟩ | ⟨-, e⟩ | ⟨-, -, e⟩ <;> rw [e]
  · exact { Keeps.refl (bits := bits) (sp := sp) (s := s) with clock := Nat.le_add_right _ _, holding := fun m => absurd h m }
  · exact .refl
  · exact { Keeps.refl (bits := bits) (sp := sp) (s := s) with clock := Nat.le_add_right _ _, holding := fun m => absurd h m }

theorem beginMeasure_keeps (d : AdcDev) (c : AdcChan) (n : Nat) (h : .stats ∈ sp) : Keeps bits sp s (beginMeasure d c n s) :=
  .set_st _ h
theorem storeSample_keeps (i : Nat) (x : Code) (h : .stats ∈ sp) : Keeps bits sp s (storeSample i x s) := .set_st _ h
theorem updateStats_keeps (f : Stats → Stats) (h : .stats ∈ sp) : Keeps bits sp s (updateStats f s) := .set_st _ h

theorem secondPass_keeps (h : .stats ∈ sp) : Keeps bits sp s (secondPass s) := by
  unfold secondPass
  split
  · exact .trans (enter_keeps .msPass2) (updateStats_keeps _ h)
  · exact .refl

/-! ### The loops -/

theorem mapBanks_keeps (ks : List BankIdx) : (mapBanks ks s).Keeps bits sp s := by
  induction ks generalizing s with
  | nil => exact .refl
  | cons k ks ih =>
    unfold mapBanks
    split
    · exact keeps_after (.of_quiet rfl) ih
    · exact .of_quiet rfl

theorem configLines_keeps (gs : List Line) (h : ∀ g ∈ gs, s.cfg.dirPolicy.get g ≠ .untouched → (.oe, g) ∈ bits) :
    (configLines gs s).Keeps bits sp s := by
  induction gs generalizing s with
  | nil => exact .refl
  | cons g gs ih =>
    unfold configLines
    refine keeps_after (enter_keeps (.cf g)) (keeps_andThen ?_ fun _ t ht => ?_)
    · unfold configLine
      have := h g (by simp)
      simp only [enter_cfg]
      split
      · exact .refl
      · exact rmwBit_keeps _ _ _ (this (by simp_all))
      · exact rmwBit_keeps _ _ _ (this (by simp_all))
    · apply ih
      intro g' hg'
      rw [ht.cfg, enter_cfg]
      exact h g' (by simp [hg'])

theorem eachSetting_keeps (call : SpiSetting → State → Res Unit) (hc : ∀ x s, (call x s).Keeps bits sp s)
    (xs : List SpiSetting) : (eachSetting call xs s).Keeps bits sp s := by
  induction xs generalizing s with
  | nil => exact .refl
  | cons x xs ih => exact keeps_andThen (hc x s) fun _ _ _ => ih

theorem setSetting_keeps (x : SpiSetting) : (setSetting x s).Keeps bits sp s := by
  unfold setSetting; split <;> exact .of_quiet rfl

theorem getSetting_keeps (x : SpiSetting) : (getSetting x s).Keeps bits sp s := by
  unfold getSetting
  simp only
  split
  · exact .of_quiet rfl
  · split <;> exact .of_quiet rfl

theorem captureSamples_keeps (c : AdcChan) (x : Word) (m i : Nat) (h : .holding ∈ sp) (h' : .stats ∈ sp) :
    (captureSamples c x m i s).Keeps bits sp s := by
  induction m generalizing i s with
  | zero => exact .refl
  | succ m ih =>
    unfold captureSamples
    refine keeps_after (enter_keeps (.msSample i)) (keeps_andThen (spiXfer_keeps _ h) fun r t _ => ?_)
    exact keeps_after (.trans (settle_keeps x) (storeSample_keeps _ _ h')) (ih _)

end Sys2Proof.Machine
end

