-- ==== Sys2Proof/Laws/Loops.lean ====
section
/-! SUPPORT. What the loops of GMAP, GCFGALL, SCFG and OMEASURE do, said once: all of it when every answer is favourable, and
where they stop when one is not. -/

namespace Sys2Proof.Machine

/-! ### GMAP -/

/-- The state after `n` draws of `map_ok`. -/
def mapsDone (n : Nat) (s : State) : State := { s with env := { s.env with mapOk := s.env.mapOk.drop n } }

theorem mapBanks_granted (ks : List BankIdx) (s : State) (h : s.env.mapOk.grants Config.freeMapOk ks.length = true) :
    mapBanks ks s = .done () (mapsDone ks.length s) := by
  induction ks generalizing s with
  | nil => rfl
  | cons k ks ih =>
    obtain ⟨h1, h2⟩ := (script_grants_succ _ _ _).1 h
    rw [mapBanks, if_pos (show mapOk s = true from h1), ih (tookMap s) h2]
    rfl

/-- The first mapping refused is fatal (spec/40_gpio_register_access.md R133). -/
theorem mapBanks_refused (ks ks' : List BankIdx) (k : BankIdx) (s : State)
    (h : s.env.mapOk.grants Config.freeMapOk ks.length = true)
    (hf : (s.env.mapOk.drop ks.length).head Config.freeMapOk = false) :
    mapBanks (ks ++ k :: ks') s = .raised (.fatalInit (.map k)) (mapsDone (ks.length + 1) s) := by
  induction ks generalizing s with
  | nil =>
    have : mapOk s = false := hf
    simp only [List.nil_append, mapBanks, this, Bool.false_eq_true, if_false]
    rfl
  | cons j ks ih =>
    obtain ⟨h1, h2⟩ := (script_grants_succ _ _ _).1 h
    rw [List.cons_append, mapBanks, if_pos (show mapOk s = true from h1), ih (tookMap s) h2 hf]
    rfl

/-! ### GCFGALL -/

/-- The level a policy gives an offset-enable bit, the old one when it is untouched (spec/10_state.md R31). -/
def policyBit (p : DirPolicy) (old : Bool) : Bool :=
  match p with
  | .untouched => old
  | .output => false
  | .input => true

/-- The lines of a list that GCFGALL accesses. -/
def touchedLines (c : Config) (gs : List Line) : List Line := gs.filter fun g => c.dirPolicy.get g != .untouched

theorem configLine_untouched {g : Line} {s : State} (h : s.cfg.dirPolicy.get g = .untouched) : configLine g s = .done () s := by
  simp [configLine, h]

/-- One line of GCFGALL that is not untouched. -/
theorem configLine_touched {g : Line} {s : State} (h : s.cfg.dirPolicy.get g ≠ .untouched) :
    configLine g s = rmwBit (bankOf g) .oe (maskOf g) (policyBit (s.cfg.dirPolicy.get g) false) s := by
  cases hp : s.cfg.dirPolicy.get g <;> simp_all [configLine, policyBit]

/-- What GCFGALL leaves of the lines of a list it got through. -/
structure Configured (gs : List Line) (s t : State) : Prop where
  eq : t = { accessed (2 * (touchedLines s.cfg gs).length) s with seq := t.seq, oe := t.oe, trace := t.trace }
  bit : ∀ h, lineBit t.oe h = if h ∈ gs then policyBit (s.cfg.dirPolicy.get h) (lineBit s.oe h) else lineBit s.oe h
  accesses : (t.trace.filter Event.isAccess).length =
    (s.trace.filter Event.isAccess).length + 2 * (touchedLines s.cfg gs).length

theorem Configured.nil (s : State) : Configured [] s s := ⟨rfl, fun h => by simp, rfl⟩

/-- A line left alone before a list of configured lines. -/
theorem Configured.cons_untouched {g : Line} {l : List Line} {s t : State} (hp : s.cfg.dirPolicy.get g = .untouched)
    (h : Configured l (enter (.cf g) s) t) : Configured (g :: l) s t := by
  have hl : touchedLines s.cfg (g :: l) = touchedLines s.cfg l := by simp [touchedLines, hp]
  refine ⟨?_, fun x => ?_, ?_⟩
  · rw [hl]; exact h.eq
  · rw [h.bit x]
    by_cases hx : x = g
    · subst hx; simp [hp, policyBit]
    · simp [hx]
  · rw [hl, h.accesses]; simp [Event.isAccess]

/-- A line configured before a list of configured lines. -/
theorem Configured.cons_touched {g : Line} {l : List Line} {s t : State} (hp : s.cfg.dirPolicy.get g ≠ .untouched)
    (h : Configured l (rmwDone .oe g (policyBit (s.cfg.dirPolicy.get g) false) (enter (.cf g) s)) t) :
    Configured (g :: l) s t := by
  have hl : (touchedLines s.cfg (g :: l)).length = (touchedLines s.cfg l).length + 1 := by simp [touchedLines, hp]
  refine ⟨?_, fun x => ?_, ?_⟩
  · rw [hl, show 2 * ((touchedLines s.cfg l).length + 1) = 2 + 2 * (touchedLines s.cfg l).length by omega, ← accessed_accessed]
    exact h.eq
  · rw [h.bit x]
    have hb : lineBit (rmwDone .oe g (policyBit (s.cfg.dirPolicy.get g) false) (enter (.cf g) s)).oe x = _ :=
      lineBit_rmwFile s.oe g x _
    rw [hb]
    by_cases hx : x = g
    · subst hx
      cases hq : s.cfg.dirPolicy.get x <;> simp_all [policyBit, rmwDone]
    · simp [hx, rmwDone]
  · have h2 : ∀ a b v w, ([Event.read a v, Event.write b w].filter Event.isAccess).length = 2 := fun _ _ _ _ => rfl
    rw [hl, h.accesses]
    simp only [rmwDone, enter_trace, List.filter_append, List.length_append, h2]
    simp [Event.isAccess]
    omega

/-- GCFGALL over a list of lines, everything it can do: all of them configured, or a refused access at one of them, with the lines
before it configured and the rest as they were (spec/40_gpio_register_access.md R143). -/
theorem configLines_cases (gs : List Line) (s : State) :
    (accessesGranted (2 * (touchedLines s.cfg gs).length) s ∧ ∃ t, configLines gs s = .done () t ∧ Configured gs s t) ∨
    (¬ accessesGranted (2 * (touchedLines s.cfg gs).length) s ∧ ∃ pre g post t u, gs = pre ++ g :: post ∧
      s.cfg.dirPolicy.get g ≠ .untouched ∧ Configured pre s t ∧
      configLines gs s = .raised (.deviceIo (.register (regAddr s.cfg (bankOf g) .oe))) u ∧
      u = { t with
        seq := u.seq, clk := u.clk, env := { t.env with accessOk := u.env.accessOk, gaps := u.env.gaps }, trace := u.trace }) := by
  induction gs generalizing s with
  | nil =>
    exact .inl ⟨rfl, s, rfl, .nil s⟩
  | cons g gs ih =>
    by_cases hp : s.cfg.dirPolicy.get g = .untouched
    · have ht : touchedLines s.cfg (g :: gs) = touchedLines s.cfg gs := by simp [touchedLines, hp]
      have hd : configLines (g :: gs) s = configLines gs (enter (.cf g) s) := by
        rw [configLines, configLine_untouched (s := enter (.cf g) s) hp, andThen_done]
      rw [ht, hd]
      rcases ih (enter (.cf g) s) with ⟨h1, t, h2, h3⟩ | ⟨h1, pre, g', post, t, u, h2, h3, h4, h5, h6⟩
      · exact .inl ⟨h1, t, h2, h3.cons_untouched hp⟩
      · exact .inr ⟨h1, g :: pre, g', post, t, u, by rw [h2]; rfl, h3, h4.cons_untouched hp, h5, h6⟩
    · have ht : (touchedLines s.cfg (g :: gs)).length = (touchedLines s.cfg gs).length + 1 := by simp [touchedLines, hp]
      have he : ∀ n, accessesGranted (2 * (n + 1)) s ↔ accessesGranted 2 s ∧ (s.env.accessOk.drop 2).grants Config.freeAccessOk (2 * n) = true := by
        intro n
        rw [accessesGranted, show 2 * (n + 1) = 2 + 2 * n by omega, script_grants_add]
      rw [ht, he]
      have hl : configLine g (enter (.cf g) s) = _ := configLine_touched (s := enter (.cf g) s) hp
      rcases rmwBit_cases .oe g (policyBit (s.cfg.dirPolicy.get g) false) (enter (.cf g) s) with ⟨h1, h2⟩ | ⟨u, h2, hu⟩
      · have h1' : accessesGranted 2 s := h1
        have hd : configLines (g :: gs) s =
            configLines gs (rmwDone .oe g (policyBit (s.cfg.dirPolicy.get g) false) (enter (.cf g) s)) := by
          rw [configLines, hl]
          simp only [enter_cfg]
          rw [h2, andThen_done]
        rw [hd]
        rcases ih (rmwDone .oe g (policyBit (s.cfg.dirPolicy.get g) false) (enter (.cf g) s)) with
          ⟨h3, t, h4, h5⟩ | ⟨h3, pre, g', post, t, u, h4, h5, h6, h7, h8⟩
        · exact .inl ⟨⟨h1', h3⟩, t, h4, h5.cons_touched hp⟩
        · exact .inr ⟨fun hh => h3 hh.2, g :: pre, g', post, t, u, by rw [h4]; rfl, h5, h6.cons_touched hp, h7, h8⟩
      · right
        refine ⟨?_, [], g, gs, s, u, rfl, hp, .nil s, ?_, ?_⟩
        · rintro ⟨h3, -⟩
          have h4 := rmwBit_granted (s := enter (.cf g) s) h3 .oe g (policyBit (s.cfg.dirPolicy.get g) false)
          rw [h4] at h2
          cases h2
        · rw [configLines, hl]
          simp only [enter_cfg]
          rw [h2, andThen_raised]
          rfl
        · have := hu.eq
          rw [this]
          rfl

/-- GCFGALL over two lists, one after the other. -/
theorem configLines_append (pre post : List Line) (s : State) :
    configLines (pre ++ post) s = (configLines pre s).andThen fun _ t => configLines post t := by
  induction pre generalizing s with
  | nil => rfl
  | cons g pre ih =>
    rw [List.cons_append, configLines, configLines]
    cases configLine g (enter (.cf g) s) with
    | done a t => exact ih t
    | rejected r t => rfl
    | raised f t => rfl

/-- The place of a touched line in a list, by its number among the touched lines. -/
theorem touchedLines_split {c : Config} {gs : List Line} {m : Nat} {g : Line} (h : (touchedLines c gs)[m]? = some g) :
    ∃ pre post, gs = pre ++ g :: post ∧ c.dirPolicy.get g ≠ .untouched ∧ (touchedLines c pre).length = m := by
  induction gs generalizing m with
  | nil => simp [touchedLines] at h
  | cons x gs ih =>
    by_cases hx : c.dirPolicy.get x = .untouched
    · obtain ⟨pre, post, h1, h2, h3⟩ := ih (m := m) (by simpa [touchedLines, hx] using h)
      exact ⟨x :: pre, post, by rw [h1]; rfl, h2, by simpa [touchedLines, hx] using h3⟩
    · cases m with
      | zero =>
        have : x = g := by simpa [touchedLines, hx] using h
        exact ⟨[], gs, by rw [this]; rfl, this ▸ hx, rfl⟩
      | succ m =>
        obtain ⟨pre, post, h1, h2, h3⟩ := ih (m := m) (by simpa [touchedLines, hx] using h)
        exact ⟨x :: pre, post, by rw [h1]; rfl, h2, by simpa [touchedLines, hx] using h3⟩

/-- GCFGALL when its access number `k` is the first refused: the lines before that access are configured, and no other access is
made (spec/40_gpio_register_access.md R143, spec/60_exceptions.md R313). -/
theorem configLines_refused {gs : List Line} {s : State} {k : Nat} {g : Line}
    (hg : (touchedLines s.cfg gs)[k / 2]? = some g) (h : accessesGranted k s) (hn : ¬ accessesGranted (k + 1) s) :
    ∃ pre post t, gs = pre ++ g :: post ∧ Configured pre s t ∧ (touchedLines s.cfg pre).length = k / 2 ∧
      configLines gs s = .raised (.deviceIo (.register (regAddr s.cfg (bankOf g) .oe)))
        (rmwRefused .oe g (k % 2) (enter (.cf g) t)) := by
  obtain ⟨pre, post, rfl, hp, hl⟩ := touchedLines_split hg
  have hk : k = 2 * (touchedLines s.cfg pre).length + k % 2 := by omega
  obtain ⟨h1, h2⟩ := (script_grants_add _ (2 * (touchedLines s.cfg pre).length) (k % 2) _).1 (hk ▸ h)
  rcases configLines_cases pre s with ⟨-, t, ht, hc⟩ | ⟨hr, -⟩
  · have hcfg : t.cfg = s.cfg := by rw [hc.eq]; rfl
    have ha : t.env.accessOk = s.env.accessOk.drop (2 * (touchedLines s.cfg pre).length) := by rw [hc.eq]; rfl
    refine ⟨pre, post, t, rfl, hc, hl, ?_⟩
    have g1 : accessesGranted (k % 2) (enter (.cf g) t) := by rw [accessesGranted, enter_env, ha]; exact h2
    have g2 : ¬ accessesGranted (k % 2 + 1) (enter (.cf g) t) := by
      rw [accessesGranted, enter_env, ha]
      intro h3
      refine hn ((congrArg (fun n => s.env.accessOk.grants Config.freeAccessOk (n + 1)) hk).trans ?_)
      rw [Nat.add_assoc]
      exact (script_grants_add _ _ _ _).2 ⟨h1, h3⟩
    rw [configLines_append, ht, andThen_done, configLines, configLine_touched (s := enter (.cf g) t) (by rw [enter_cfg, hcfg]; exact hp),
      rmwBit_refused (Nat.mod_lt _ (by decide)) g1 g2, andThen_raised, enter_cfg, hcfg]
    rfl
  · exact absurd h1 hr

/-- The lines before a line, in ascending order. -/
theorem mem_before_iff {pre post : List Line} {g : Line} (h : List.finRange 192 = pre ++ g :: post) (k : Line) :
    k ∈ pre ↔ k < g := by
  have hs : List.Pairwise (· < ·) (List.finRange 192) := List.pairwise_lt_finRange 192
  have hk := List.mem_finRange k
  rw [h] at hs hk
  rw [List.pairwise_append] at hs
  refine ⟨fun hk' => hs.2.2 k hk' g (by simp), fun hlt => ?_⟩
  rcases List.mem_append.1 hk with hk | hk
  · exact hk
  · rcases List.mem_cons.1 hk with rfl | hk
    · exact absurd hlt (lt_irrefl _)
    · exact absurd hlt (not_lt.2 ((List.pairwise_cons.1 hs.2.1).1 k hk).le)

end Sys2Proof.Machine
end

