-- ==== Sys2Proof/Laws/Params.lean ====
section
/-! SUPPORT. What the constraints on the parameters (spec/00_scope.md R7) give. -/

namespace Sys2Proof.Machine

theorem distinct_iff_nodup {α : Type} [DecidableEq α] (l : List α) : Config.distinct l = true ↔ l.Nodup := by
  induction l with
  | nil => simp [Config.distinct]
  | cons x xs ih => simp [Config.distinct, ih]

variable {c : Config} (hc : c.valid = true)

include hc

theorem valid_windows : c.validWindows = true := by
  simp only [Config.valid, Bool.and_eq_true] at hc
  exact hc.1.1

theorem valid_pins : c.validPins = true := by
  simp only [Config.valid, Bool.and_eq_true] at hc
  exact hc.1.2

theorem valid_codes : c.validCodes = true := by
  simp only [Config.valid, Bool.and_eq_true] at hc
  exact hc.2

/-- Every base is a multiple of 4096. -/
theorem base_aligned (k : BankIdx) : (c.bankBase.get k).toNat % 4096 = 0 := by
  have h := valid_windows hc
  simp only [Config.validWindows, Bool.and_eq_true, List.all_eq_true, beq_iff_eq] at h
  exact h.1.1.1 _ (by simp [Vector.get_eq_getElem])

/-- Different banks have different bases. -/
theorem base_injective {k k' : BankIdx} (h : c.bankBase.get k = c.bankBase.get k') : k = k' := by
  have hw := valid_windows hc
  simp only [Config.validWindows, Bool.and_eq_true] at hw
  have hd := (distinct_iff_nodup _).1 hw.1.1.2
  simp only [Vector.get_eq_getElem] at h
  have h1 : c.bankBase.toList[k.val]'(by simp) = c.bankBase.toList[k'.val]'(by simp) := by simpa using h
  exact Fin.ext ((List.Nodup.getElem_inj_iff hd).1 h1)

/-- Every offset is a multiple of 4 below 4096. -/
theorem offset_aligned (r : Reg) : (regOffset c r).toNat % 4 = 0 ∧ (regOffset c r).toNat < 4096 := by
  have hw := valid_windows hc
  simp only [Config.validWindows, Bool.and_eq_true, List.all_cons, List.all_nil, beq_iff_eq] at hw
  refine ⟨?_, (regOffset c r).isLt⟩
  cases r
  · exact hw.1.2.1
  · exact hw.1.2.2.1
  · exact hw.1.2.2.2.1

/-- Different registers of a bank have different offsets. -/
theorem offset_injective {r r' : Reg} (h : regOffset c r = regOffset c r') : r = r' := by
  have hw := valid_windows hc
  simp only [Config.validWindows, Bool.and_eq_true] at hw
  have hd := (distinct_iff_nodup _).1 hw.2
  simp only [List.nodup_cons, List.mem_cons, List.not_mem_nil, or_false, not_or] at hd
  cases r <;> cases r' <;> simp_all [regOffset]

/-- The four mode codes are different. -/
theorem modeOfCode_code (m : UStepMode) : modeOfCode c.ustepCode (ustepCodeOf c.ustepCode m) = m := by
  have h := valid_codes hc
  simp only [Config.validCodes, Bool.and_eq_true] at h
  have hd := (distinct_iff_nodup _).1 h.1.1.1.1.1.1.2
  simp only [List.nodup_cons, List.mem_cons, List.not_mem_nil, or_false, not_or] at hd
  cases m <;> simp_all [modeOfCode, ustepCodeOf]

/-- The signals resolve to different lines. -/
theorem signals_nodup : c.resolve.entries.Nodup := by
  have h := valid_pins hc
  simp only [Config.validPins, Bool.and_eq_true] at h
  exact (distinct_iff_nodup _).1 h.1.2

/-- The two mode lines are different, and so are the two mux lines. -/
theorem paired_lines_ne : c.resolve.ms1 ≠ c.resolve.ms2 ∧ c.resolve.adcSel1 ≠ c.resolve.adcSel2 := by
  have h := List.Nodup.of_append_right (signals_nodup hc)
  simp only [List.nodup_cons, List.mem_cons, not_or] at h
  exact ⟨h.1.1, h.2.2.2.1.1⟩

/-- The two connector entries the spec gives (spec/10_state.md R30). -/
theorem conn_given : c.connLine 10 = some 185 ∧ c.connLine 36 = none := by
  have h := valid_pins hc
  simp only [Config.validPins, Bool.and_eq_true, beq_iff_eq] at h
  exact ⟨h.1.1.1.1, h.1.1.1.2⟩

/-- A register's address is its base plus its offset, with no wrap-around. -/
theorem regAddr_toNat (k : BankIdx) (r : Reg) :
    (regAddr c k r).toNat = (c.bankBase.get k).toNat + (regOffset c r).toNat := by
  have h1 := base_aligned hc k
  have h2 := offset_aligned hc r
  have h3 := (c.bankBase.get k).isLt
  simp only [regAddr, BitVec.toNat_add, BitVec.truncate_eq_setWidth, BitVec.toNat_setWidth]
  rw [Nat.mod_eq_of_lt (a := (regOffset c r).toNat) (by omega), Nat.mod_eq_of_lt (by omega)]

/-- Different registers have different addresses. -/
theorem regAddr_injective {k k' : BankIdx} {r r' : Reg} (h : regAddr c k r = regAddr c k' r') : k = k' ∧ r = r' := by
  have e := congrArg BitVec.toNat h
  rw [regAddr_toNat hc, regAddr_toNat hc] at e
  have h1 := base_aligned hc k
  have h2 := base_aligned hc k'
  have h3 := offset_aligned hc r
  have h4 := offset_aligned hc r'
  exact ⟨base_injective hc (BitVec.eq_of_toNat_eq (by omega)), offset_injective hc (BitVec.eq_of_toNat_eq (by omega))⟩

end Sys2Proof.Machine
end

