-- ==== Sys2Proof/Laws/PerInstr.lean ====
section
/-! SUPPORT. What holds of every instruction as syntax, one lemma per constructor. -/

namespace Sys2Proof.Laws.EncodesInFormat

/-- The frame of an instruction carries one of the 31 opcodes, leaves every field its format does not use zero, and gives a bit
operand a bit (spec/30_encoding.md R102, R105, R106). -/
def Statement (i : Instr) : Prop :=
  ∃ fmt j, opcodeRow (encode i) = some (fmt, j) ∧ fmt.unusedZero (encode i) = true ∧ (fmt = .fpb → (encode i).b.toNat ≤ 1)

/-- The same for every instruction at once. -/
theorem all (i : Instr) : Statement i := by
  cases i <;>
    exact ⟨_, _, opcodeRow_ofFields ..,
      by simp [Format.unusedZero, Format.usesA, Format.usesB, Format.usesImm1, Format.usesImm2, encode], by simp [encode]⟩

theorem gopen : Statement .gopen := all _
theorem gmap : Statement .gmap := all _
theorem grdlvl (pin : Int) : Statement (.grdlvl pin) := all _
theorem gwrlvl (pin : Int) (level : Bool) : Statement (.gwrlvl pin level) := all _
theorem ggetdir (pin : Int) : Statement (.ggetdir pin) := all _
theorem gsetdir (pin : Int) (dir : Bool) : Statement (.gsetdir pin dir) := all _
theorem gcfgall : Statement .gcfgall := all _
theorem grelease : Statement .grelease := all _
theorem pconn (pin : Int) : Statement (.pconn pin) := all _
theorem pdefdir (gpio : Int) : Statement (.pdefdir gpio) := all _
theorem pstep (i : Field8) : Statement (.pstep i) := all _
theorem pdir (i : Field8) : Statement (.pdir i) := all _
theorem pen (i : Field8) : Statement (.pen i) := all _
theorem pusboff (j : Field8) : Statement (.pusboff j) := all _
theorem scfg : Statement .scfg := all _
theorem sxfer (word : Word) : Statement (.sxfer word) := all _
theorem aencinit : Statement .aencinit := all _
theorem aenccfg : Statement .aenccfg := all _
theorem aencsel (chan : Field8) : Statement (.aencsel chan) := all _
theorem aencfifo : Statement .aencfifo := all _
theorem aencpd : Statement .aencpd := all _
theorem adecode (word : Word) : Statement (.adecode word) := all _
theorem araw2v (raw : Word) (fsUv : Word) : Statement (.araw2v raw fsUv) := all _
theorem oena (target : Field8) (idx : Field8) : Statement (.oena target idx) := all _
theorem odis (target : Field8) (idx : Field8) : Statement (.odis target idx) := all _
theorem oisena (target : Field8) (idx : Field8) : Statement (.oisena target idx) := all _
theorem osetustep (mode : Field8) : Statement (.osetustep mode) := all _
theorem ogetustep : Statement .ogetustep := all _
theorem ostep1 (drive : Field8) (dir : Field8) (freq : Word) : Statement (.ostep1 drive dir freq) := all _
theorem ophreset : Statement .ophreset := all _
theorem omeasure (dev : Field8) (chan : Field8) (n : Word) (settle : Word) : Statement (.omeasure dev chan n settle) := all _

end Sys2Proof.Laws.EncodesInFormat
end

