-- ==== Sys2Proof/Laws/Protocols.lean ====
section
/-! SUPPORT. What the protocols of OSTEP1, SCFG and OMEASURE do when every answer is favourable: each part said once. -/

namespace Sys2Proof.Machine

/-- `Elevate()`, in one record (spec/45_motion.md R248). -/
theorem elevate_eq (s : State) : elevate s = { s with
    prio := if prioGranted s then .elevated else s.prio
    prioFails := if prioGranted s then s.prioFails else s.prioFails + 1
    env := { s.env with prioGranted := s.env.prioGranted.tail }
    trace := s.trace ++ [.elevate (prioGranted s)] } := by
  unfold elevate
  split <;> simp_all [logEvent, tookPrio]

/-! ### The step pulse -/

/-- A write of a line granted, then a busy-wait in a phase. -/
def halfPulse (p : Phase) (g : Line) (v : Bool) (h : Nat) (s : State) : State := busyWait h (enter p (rmwDone .dout g v s))

/-- What half a pulse changes, the clock's part named. -/
theorem halfPulse_shape (p : Phase) (g : Line) (v : Bool) (h : Nat) (s : State) : ∃ t0 clk ticks,
    halfPulse p g v h s = { accessed 2 s with
      dout := rmwFile s.dout g v
      seq := p
      deadline := t0 + h
      clk := clk
      env := { (accessed 2 s).env with ticks := ticks }
      trace := s.trace ++ [.read (regAddr s.cfg (bankOf g) .dout) (s.dout.get (bankOf g)),
        .write (regAddr s.cfg (bankOf g) .dout) (rmwWord s.dout g v), .phase p, .wait t0 (t0 + h) clk] } ∧
    s.clk ≤ t0 ∧ t0 + h ≤ clk := by
  refine ⟨nowValue (enter p (rmwDone .dout g v s)), (halfPulse p g v h s).clk, (halfPulse p g v h s).env.ticks, ?_,
    le_trans (Nat.le_add_right _ _) (Nat.le_add_right _ _), (busyWait_ge h (enter p (rmwDone .dout g v s))).1⟩
  rw [halfPulse, busyWait_eq]
  simp [rmwDone, enter, logEvent]

/-- Steps 3 to 6 of the stepping protocol with every access granted (spec/45_motion.md R245). -/
def pulseDone (g : Line) (h : Nat) (s : State) : State :=
  halfPulse .stWait2 g false h (enter .stLow (halfPulse .stWait1 g true h (enter .stHigh s)))

/-- The pulse: what it changes and what it shows, the clock's part named (spec/45_motion.md R245, R249). -/
theorem pulseDone_shape (g : Line) (h : Nat) (s : State) : ∃ t0 e0 t1 e1 ticks,
    pulseDone g h s = { accessed 4 s with
      dout := rmwFile (rmwFile s.dout g true) g false
      seq := .stWait2
      deadline := t1 + h
      clk := e1
      env := { (accessed 4 s).env with ticks := ticks }
      trace := s.trace ++ [.phase .stHigh, .read (regAddr s.cfg (bankOf g) .dout) (s.dout.get (bankOf g)),
        .write (regAddr s.cfg (bankOf g) .dout) (rmwWord s.dout g true), .phase .stWait1, .wait t0 (t0 + h) e0,
        .phase .stLow, .read (regAddr s.cfg (bankOf g) .dout) (rmwWord s.dout g true),
        .write (regAddr s.cfg (bankOf g) .dout) (rmwWord (rmwFile s.dout g true) g false), .phase .stWait2,
        .wait t1 (t1 + h) e1] } ∧
    s.clk ≤ t0 ∧ t0 + h ≤ e0 ∧ e0 ≤ t1 ∧ t1 + h ≤ e1 := by
  obtain ⟨t0, e0, k0, a, a1, a2⟩ := halfPulse_shape .stWait1 g true h (enter .stHigh s)
  have b := congrArg (fun w => halfPulse .stWait2 g false h (enter .stLow w)) a
  obtain ⟨t1, e1, k1, c, c1, c2⟩ := halfPulse_shape .stWait2 g false h (enter .stLow
    { accessed 2 (enter .stHigh s) with
      dout := rmwFile s.dout g true
      seq := .stWait1
      deadline := t0 + h
      clk := e0
      env := { (accessed 2 s).env with ticks := k0 }
      trace := (enter .stHigh s).trace ++ [.read (regAddr s.cfg (bankOf g) .dout) (s.dout.get (bankOf g)),
        .write (regAddr s.cfg (bankOf g) .dout) (rmwWord s.dout g true), .phase .stWait1, .wait t0 (t0 + h) e0] })
  refine ⟨t0, e0, t1, e1, k1, (b.trans c).trans ?_, a1, a2, c1, c2⟩
  have r : (rmwFile s.dout g true).get (bankOf g) = rmwWord s.dout g true := by simp [rmwFile, Vector.get_eq_getElem]
  simp [enter, logEvent, r]

/-- The pulse leaves the step line low, the other lines as they were (spec/45_motion.md R249). -/
theorem pulseDone_lines (g : Line) (h : Nat) (s : State) (x : Line) :
    lineBit (pulseDone g h s).dout x = if x = g then false else lineBit s.dout x := by
  change lineBit (rmwFile (rmwFile s.dout g true) g false) x = _
  rw [lineBit_rmwFile, lineBit_rmwFile]
  split <;> rfl

/-- The state in which OSTEP1 comes to the direction line (spec/45_motion.md R245, steps 1 and 2). -/
def pulseStarted (s : State) : State :=
  { s with
    seq := .stDir
    prio := if prioGranted s then .elevated else s.prio
    prioFails := if prioGranted s then s.prioFails else s.prioFails + 1
    env := { s.env with prioGranted := s.env.prioGranted.tail }
    trace := s.trace ++ [.phase .stPrio, .elevate (prioGranted s), .phase .stDir] }

theorem pulseStarted_eq (s : State) : enter .stDir (elevate (enter .stPrio s)) = pulseStarted s := by
  rw [elevate_eq]
  simp [pulseStarted, enter, logEvent, prioGranted]
  exact ⟨rfl, rfl⟩

/-- The direction line written, or not accessed at all (spec/45_motion.md R245). -/
def directed (d : Drive) (level : Option Bool) (s : State) : State :=
  match level with
  | none => s
  | some v => rmwDone .dout (s.sig.dir.get d) v s

/-- How many accesses the direction line takes. -/
def dirAccesses (level : Option Bool) : Nat := if level.isSome then 2 else 0

theorem writeDirection_granted {d : Drive} {sd : StepDir} {s : State} (hm : s.lc = .mapped)
    (h : accessesGranted (dirAccesses (dirLevel s.cfg sd)) s) :
    writeDirection d sd s = .done () (directed d (dirLevel s.cfg sd) s) := by
  unfold writeDirection
  cases hl : dirLevel s.cfg sd with
  | none => rfl
  | some v =>
    rw [hl] at h
    exact writeLevel_granted hm h _ v

theorem writeDirection_refused {d : Drive} {sd : StepDir} {s : State} {k : Nat} (hm : s.lc = .mapped)
    (hk : k < dirAccesses (dirLevel s.cfg sd)) (h : accessesGranted k s) (hn : ¬ accessesGranted (k + 1) s) :
    writeDirection d sd s = .raised (.deviceIo (.register (regAddr s.cfg (bankOf (s.sig.dir.get d)) .dout)))
      (rmwRefused .dout (s.sig.dir.get d) k s) := by
  unfold writeDirection
  cases hl : dirLevel s.cfg sd with
  | none => rw [hl] at hk; exact absurd hk (Nat.not_lt_zero k)
  | some v =>
    rw [hl] at hk
    exact writeLevel_refused hm hk h hn _ v

section

variable {d : Drive} {sd : StepDir} {f k : Nat} {a : Word} {s t : State}

/-- The seven steps with every access granted (spec/45_motion.md R245). -/
theorem stepPulse_granted (hw : writeDirection d sd (pulseStarted s) = .done () t) (hm : t.lc = .mapped)
    (hg : accessesGranted 4 t) :
    stepPulse d sd f s =
      .done [] (yieldCpu (release (enter .stYield (pulseDone (t.sig.step.get d) (halfTicks t.cfg.clkHz f) t)))) := by
  obtain ⟨h2, h2'⟩ := (script_grants_add _ 2 2 _).1 hg
  unfold stepPulse
  simp only [pulseStarted_eq]
  rw [hw, andThen_done, writeLevel_granted (s := enter .stHigh t) hm h2, andThen_done]
  rw [writeLevel_granted (by simpa using hm) (by simpa [accessesGranted] using h2'), andThen_done]
  simp only [enter_sig, enter_cfg, busyWait_sig, busyWait_cfg, rmwDone_sig, rmwDone_cfg]
  rfl

/-- Step 2 with an access refused. -/
theorem stepPulse_refused_direction (hw : writeDirection d sd (pulseStarted s) = .raised (.deviceIo (.register a)) t) :
    stepPulse d sd f s = .raised (.deviceIo (.register a)) t := by
  unfold stepPulse
  simp only [pulseStarted_eq]
  rw [hw, andThen_raised]

/-- Step 3 with its access number `k` refused. -/
theorem stepPulse_refused_high (hw : writeDirection d sd (pulseStarted s) = .done () t) (hm : t.lc = .mapped) (hk : k < 2)
    (h : accessesGranted k t) (hn : ¬ accessesGranted (k + 1) t) :
    stepPulse d sd f s = .raised (.deviceIo (.register (regAddr t.cfg (bankOf (t.sig.step.get d)) .dout)))
      (rmwRefused .dout (t.sig.step.get d) k (enter .stHigh t)) := by
  unfold stepPulse
  simp only [pulseStarted_eq]
  rw [hw, andThen_done, writeLevel_refused (s := enter .stHigh t) hm hk h hn, andThen_raised]
  rfl

/-- Step 5 with its access number `k` refused: the line stays high (spec/45_motion.md R249 (5)). -/
theorem stepPulse_refused_low (hw : writeDirection d sd (pulseStarted s) = .done () t) (hm : t.lc = .mapped) (hk : k < 2)
    (h : accessesGranted (2 + k) t) (hn : ¬ accessesGranted (2 + k + 1) t) :
    stepPulse d sd f s = .raised (.deviceIo (.register (regAddr t.cfg (bankOf (t.sig.step.get d)) .dout)))
      (rmwRefused .dout (t.sig.step.get d) k
        (enter .stLow (halfPulse .stWait1 (t.sig.step.get d) true (halfTicks t.cfg.clkHz f) (enter .stHigh t)))) := by
  obtain ⟨h2, h2'⟩ := (script_grants_add _ 2 k _).1 h
  have hn' : ¬ (t.env.accessOk.drop 2).grants Config.freeAccessOk (k + 1) = true := fun h3 =>
    hn ((script_grants_add _ 2 (k + 1) _).2 ⟨h2, h3⟩)
  unfold stepPulse
  simp only [pulseStarted_eq]
  rw [hw, andThen_done, writeLevel_granted (s := enter .stHigh t) hm h2, andThen_done]
  rw [writeLevel_refused (by simpa using hm) hk (by simpa [accessesGranted] using h2') (by simpa [accessesGranted] using hn'), andThen_raised]
  simp only [enter_sig, enter_cfg, busyWait_sig, busyWait_cfg, rmwDone_sig, rmwDone_cfg]
  rfl

end

/-! ### The settings of SCFG -/

theorem setSetting_granted {x : SpiSetting} {s : State} (h : ioctlOk s = true) :
    setSetting x s = .done () (logEvent (.spiSet x (requested s.cfg x)) (tookIoctl s)) := by simp [setSetting, h]

theorem setSetting_refused {x : SpiSetting} {s : State} (h : ioctlOk s = false) :
    setSetting x s = .raised (.fatalConfig .set x) (tookIoctl s) := by simp [setSetting, h]

theorem getSetting_granted {x : SpiSetting} {s : State} (h : ioctlOk s = true) (hr : readback s = requested s.cfg x) :
    getSetting x s = .done () (logEvent (.spiGet x (requested s.cfg x)) (tookReadback (tookIoctl s))) := by
  simp [getSetting, h, hr]

theorem getSetting_refused {x : SpiSetting} {s : State} (h : ioctlOk s = false) :
    getSetting x s = .raised (.fatalConfig .get x) (tookReadback (tookIoctl s)) := by simp [getSetting, h]

theorem getSetting_differs {x : SpiSetting} {s : State} (h : ioctlOk s = true) (hr : readback s ≠ requested s.cfg x) :
    getSetting x s = .raised (.fatalConfig .mismatch x)
      (logEvent (.spiGet x (readback s)) (tookReadback (tookIoctl s))) := by
  simp [getSetting, h, hr]

/-! ### The capture of OMEASURE -/

/-- What the capture of `m` samples from entry `i` on leaves when every transfer is granted (spec/46_measurement.md R271, R273). -/
structure Captured (chan : AdcChan) (m i : Nat) (s t : State) : Prop where
  eq : t = { later (2 * m) s with
    seq := t.seq
    spi := { s.spi with tx := if m = 0 then s.spi.tx else s.cfg.cmdSelect.get chan, rx := (s.env.rx.take Config.freeRx m).getLastD s.spi.rx }
    st := { s.st with buf := s.st.buf.take i ++ ((s.env.rx.take Config.freeRx m).map (decodeSample s.cfg) ++ s.st.buf.drop (i + m)) }
    env := { (later (2 * m) s).env with xferOk := s.env.xferOk.drop m, rx := s.env.rx.drop m }
    trace := t.trace }
  events : ∃ evs, t.trace = s.trace ++ evs ∧ evs.filter Event.isAccess = [] ∧
    (evs.filter fun e => e.isAccess || e.isXfer) =
      List.zipWith (fun tx rx => .xfer tx rx) (List.replicate m (s.cfg.cmdSelect.get chan)) (s.env.rx.take Config.freeRx m)

theorem captureSamples_granted (chan : AdcChan) (x : Word) (m i : Nat) (s : State) (hc : s.spi.cfg = .configured)
    (hi : i ≤ s.st.buf.length) (h : xfersGranted m s) :
    ∃ t, captureSamples chan x m i s = .done () t ∧ Captured chan m i s t := by
  induction m generalizing i s with
  | zero => exact ⟨s, rfl, by simp [Script.take], [], by simp [Script.take]⟩
  | succ m ih =>
    obtain ⟨h1, h2⟩ := (script_grants_succ _ _ _).1 h
    let w := s.cfg.cmdSelect.get chan
    let s1 := storeSample i (decodeSample s.cfg (rxWord s)) (settle x (xferDone w (enter (.msSample i) s)))
    have hb : s1.st.buf = s.st.buf.take i ++ decodeSample s.cfg (rxWord s) :: s.st.buf.drop (i + 1) := rfl
    obtain ⟨t, ht, hd⟩ := ih (i + 1) s1 hc (by rw [hb]; simp; omega) h2
    have hl : (s.st.buf.take i).length = i := by simp [hi]
    have b1 : s1.st.buf.take (i + 1) = s.st.buf.take i ++ [decodeSample s.cfg (rxWord s)] := by
      rw [hb, List.take_append, hl]; simp [hi]
    have b2 : s1.st.buf.drop (i + 1 + m) = s.st.buf.drop (i + (m + 1)) := by
      rw [hb, List.drop_append, hl, List.drop_eq_nil_of_le (by omega), List.nil_append,
        show i + 1 + m - i = m + 1 by omega, List.drop_succ_cons, List.drop_drop]
      congr 1
      omega
    refine ⟨t, ?_, ?_, ?_⟩
    · rw [captureSamples, spiXfer_granted (s := enter (.msSample i) s) hc h1, andThen_done]
      exact ht
    · have e := hd.eq
      rw [e, b1, b2]
      simp [s1, storeSample, settle, logEvent, xferDone, enter, Script.take, w, rxWord, -List.getLastD_eq_getLast?, List.getLastD_cons,
        Nat.mul_add, Nat.add_assoc]
    · obtain ⟨evs, e1, e2, e3⟩ := hd.events
      refine ⟨[.phase (.msSample i), .xfer w (rxWord s), .settle (x.toNat * s.cfg.tSettle)] ++ evs, ?_, ?_, ?_⟩
      · rw [e1]
        simp [s1, storeSample, settle, logEvent, xferDone, enter, rxWord]
      · rw [List.filter_append, e2]
        simp [Event.isAccess]
      · rw [List.filter_append, e3]
        simp [Event.isAccess, Event.isXfer, List.replicate_succ, Script.take, s1, storeSample, settle, logEvent, xferDone, enter, w,
          rxWord]

/-- Both mux lines written (spec/46_measurement.md R273). -/
def muxed (dev : AdcDev) (s : State) : State :=
  rmwDone .dout s.sig.adcSel2 (s.cfg.adcMuxCode.get dev).2 (rmwDone .dout s.sig.adcSel1 (s.cfg.adcMuxCode.get dev).1 s)

/-- `SelectDevice` when its four accesses are granted (spec/46_measurement.md R273). -/
theorem selectDevice_granted {dev : AdcDev} {s : State} (hm : s.lc = .mapped) (h : accessesGranted 4 s) :
    selectDevice dev s = .done () (muxed dev s) := by
  obtain ⟨h2, h2'⟩ := (script_grants_add _ 2 2 _).1 h
  rw [selectDevice, writeLevel_granted hm h2, andThen_done]
  exact writeLevel_granted (s := rmwDone .dout s.sig.adcSel1 (s.cfg.adcMuxCode.get dev).1 s) hm h2' _ _

/-- The state in which OMEASURE comes to the mux lines (spec/46_measurement.md R271, the phases MS_PRIO and MS_MUX). -/
def measureStarted (dev : AdcDev) (chan : AdcChan) (n : Nat) (s : State) : State :=
  { s with
    seq := .msMux
    prio := if prioGranted s then .elevated else s.prio
    prioFails := if prioGranted s then s.prioFails else s.prioFails + 1
    st := { s.st with n := n, dev := dev, chan := chan }
    env := { s.env with prioGranted := s.env.prioGranted.tail }
    trace := s.trace ++ [.phase .msPrio, .elevate (prioGranted s), .phase .msMux] }

theorem measureStarted_eq (dev : AdcDev) (chan : AdcChan) (n : Nat) (s : State) :
    enter .msMux (elevate (enter .msPrio (beginMeasure dev chan n s))) = measureStarted dev chan n s := by
  rw [elevate_eq]
  simp [measureStarted, enter, logEvent, beginMeasure, prioGranted]
  exact ⟨rfl, rfl⟩

/-- What the device part of OMEASURE leaves when every answer is favourable (spec/46_measurement.md R271, R273). -/
structure Acquired (dev : AdcDev) (chan : AdcChan) (n : Nat) (s t : State) : Prop where
  eq : t = { later (2 * n + 8) s with
    dout := rmwFile (rmwFile s.dout s.sig.adcSel1 (s.cfg.adcMuxCode.get dev).1) s.sig.adcSel2 (s.cfg.adcMuxCode.get dev).2
    seq := t.seq
    prio := t.prio
    prioFails := if prioGranted s then s.prioFails else s.prioFails + 1
    spi := { s.spi with tx := s.cfg.cmdSelect.get chan, rx := (s.env.rx.take Config.freeRx (n + 3)).getLastD s.spi.rx }
    st := { s.st with n := n, dev := dev, chan := chan, buf := measuredSamples n s ++ s.st.buf.drop n }
    env :=
      { (later (2 * n + 8) s).env with
        accessOk := s.env.accessOk.drop 4
        xferOk := s.env.xferOk.drop (n + 3)
        rx := s.env.rx.drop (n + 3)
        prioGranted := s.env.prioGranted.tail }
    trace := t.trace }
  events : ∃ evs, t.trace = s.trace ++ evs ∧ (evs.filter Event.isAccess).length = 4 ∧
    (evs.filter fun e => e.isAccess || e.isXfer).drop 4 =
      List.zipWith (fun tx rx => .xfer tx rx)
        (s.cfg.cmdInit :: s.cfg.cmdConfig :: List.replicate (n + 1) (s.cfg.cmdSelect.get chan))
        (s.env.rx.take Config.freeRx (n + 3))

/-- The state in which OMEASURE comes to its first sample: the mux lines driven and three transfers made (spec/46_measurement.md
R271, R273). -/
def burnt (dev : AdcDev) (chan : AdcChan) (n : Nat) (x : Word) (s : State) : State :=
  settle x (xferDone (s.cfg.cmdSelect.get chan) (enter .msBurn
    (xferDone s.cfg.cmdConfig (xferDone s.cfg.cmdInit (enter .msInit (muxed dev (measureStarted dev chan n s)))))))

theorem burnt_eq (dev : AdcDev) (chan : AdcChan) (n : Nat) (x : Word) (s : State) :
    burnt dev chan n x s = { later 8 s with
      dout := rmwFile (rmwFile s.dout s.sig.adcSel1 (s.cfg.adcMuxCode.get dev).1) s.sig.adcSel2 (s.cfg.adcMuxCode.get dev).2
      seq := .msBurn
      prio := if prioGranted s then .elevated else s.prio
      prioFails := if prioGranted s then s.prioFails else s.prioFails + 1
      spi := { s.spi with tx := s.cfg.cmdSelect.get chan, rx := s.env.rx.tail.tail.head Config.freeRx }
      st := { s.st with n := n, dev := dev, chan := chan }
      env :=
        { (later 8 s).env with
          accessOk := s.env.accessOk.drop 4
          xferOk := s.env.xferOk.drop 3
          rx := s.env.rx.drop 3
          prioGranted := s.env.prioGranted.tail }
      trace := (burnt dev chan n x s).trace } := by
  simp [burnt, measureStarted, muxed, settle, logEvent, xferDone, enter, rmwDone, rxWord, Nat.add_assoc]

/-- The device part of OMEASURE when the accesses and the first three transfers are granted: the capture is left. -/
theorem acquire_burnt (dev : AdcDev) (chan : AdcChan) (n : Nat) (x : Word) {s : State} (hm : s.lc = .mapped)
    (hc : s.spi.cfg = .configured) (ha : accessesGranted 4 s) (hx : xfersGranted 3 s) :
    acquire dev chan n x s = captureSamples chan x n 0 (burnt dev chan n x s) := by
  obtain ⟨x1, hx⟩ := (script_grants_succ _ _ _).1 hx
  obtain ⟨x2, hx⟩ := (script_grants_succ _ _ _).1 hx
  obtain ⟨x3, -⟩ := (script_grants_succ _ _ _).1 hx
  let s2 := muxed dev (measureStarted dev chan n s)
  let s4 := xferDone s.cfg.cmdConfig (xferDone s.cfg.cmdInit (enter .msInit s2))
  simp only [acquire]
  rw [measureStarted_eq, selectDevice_granted (s := measureStarted dev chan n s) hm ha, andThen_done]
  refine (congrArg (Res.andThen · _) (spiXfer_granted (s := enter .msInit s2) hc x1 s.cfg.cmdInit)).trans ?_
  rw [andThen_done]
  refine (congrArg (Res.andThen · _) (spiXfer_granted (s := xferDone s.cfg.cmdInit (enter .msInit s2)) hc x2
    s.cfg.cmdConfig)).trans ?_
  rw [andThen_done]
  refine (congrArg (Res.andThen · _) (spiXfer_granted (s := enter .msBurn s4) hc x3 (s.cfg.cmdSelect.get chan))).trans ?_
  rw [andThen_done]
  rfl

theorem acquire_granted (dev : AdcDev) (chan : AdcChan) (n : Nat) (x : Word) {s : State} (hm : s.lc = .mapped)
    (hc : s.spi.cfg = .configured) (ha : accessesGranted 4 s) (hx : xfersGranted (n + 3) s) :
    ∃ t, acquire dev chan n x s = .done () t ∧ Acquired dev chan n s t := by
  obtain ⟨hx, hx'⟩ := (script_grants_add _ 3 n _).1 (show s.env.xferOk.grants Config.freeXferOk (3 + n) = true by
    rwa [Nat.add_comm])
  obtain ⟨t, e6, hd⟩ := captureSamples_granted chan x n 0 (burnt dev chan n x s) hc (Nat.zero_le _) hx'
  refine ⟨t, (acquire_burnt dev chan n x hm hc ha hx).trans e6, ?_, ?_⟩
  · rw [hd.eq]
    simp [burnt, measureStarted, muxed, settle, logEvent, xferDone, enter, rmwDone, measuredSamples, Script.take, rxWord,
      Nat.add_assoc, -List.getLastD_eq_getLast?, List.getLastD_cons]
  · obtain ⟨evs, f1, f2, f3⟩ := hd.events
    refine ⟨[.phase .msPrio, .elevate (prioGranted s), .phase .msMux,
      .read (regAddr s.cfg (bankOf s.sig.adcSel1) .dout) (s.dout.get (bankOf s.sig.adcSel1)),
      .write (regAddr s.cfg (bankOf s.sig.adcSel1) .dout) (rmwWord s.dout s.sig.adcSel1 (s.cfg.adcMuxCode.get dev).1),
      .read (regAddr s.cfg (bankOf s.sig.adcSel2) .dout)
        ((rmwFile s.dout s.sig.adcSel1 (s.cfg.adcMuxCode.get dev).1).get (bankOf s.sig.adcSel2)),
      .write (regAddr s.cfg (bankOf s.sig.adcSel2) .dout)
        (rmwWord (rmwFile s.dout s.sig.adcSel1 (s.cfg.adcMuxCode.get dev).1) s.sig.adcSel2 (s.cfg.adcMuxCode.get dev).2),
      .phase .msInit, .xfer s.cfg.cmdInit (rxWord s), .xfer s.cfg.cmdConfig (s.env.rx.tail.head Config.freeRx), .phase .msBurn,
      .xfer (s.cfg.cmdSelect.get chan) (s.env.rx.tail.tail.head Config.freeRx), .settle (x.toNat * s.cfg.tSettle)] ++ evs, ?_, ?_, ?_⟩
    · rw [f1]
      simp [burnt, measureStarted, muxed, settle, logEvent, xferDone, enter, rmwDone, rxWord]
    · rw [List.filter_append, f2]
      rfl
    · rw [List.filter_append, f3]
      rfl

/-! ### The faults of OMEASURE -/

/-- A transfer the platform refuses: what it leaves (spec/42_spi_transactor.md R186). -/
def xferRefused (w : Word) (s : State) : State :=
  { transferred 1 s with
    spi := { s.spi with tx := w }
    trace := s.trace ++ [.xferFailed w] }

theorem spiXfer_refused {s : State} (hc : s.spi.cfg = .configured) (h : xferOk s = false) (w : Word) :
    spiXfer w s = .raised (.deviceIo .spi) (xferRefused w s) := by
  rcases spiXfer_cases w s with ⟨-, h', -⟩ | ⟨h', -⟩ | ⟨-, -, e⟩
  · exact absurd (h'.symm.trans h) (by simp)
  · exact absurd hc h'
  · exact e

theorem spiXfer_unconfigured {s : State} (hc : s.spi.cfg ≠ .configured) (w : Word) :
    spiXfer w s = .raised (.resourceAbsent .spi) s := by
  simp [spiXfer, requireSpi, hc]

/-- `SelectDevice` when its access number `k` is the first refused (spec/46_measurement.md R273, R280). -/
theorem selectDevice_refused {dev : AdcDev} {s : State} {k : Nat} (hm : s.lc = .mapped) (hk : k < 4) (h : accessesGranted k s)
    (hn : ¬ accessesGranted (k + 1) s) :
    selectDevice dev s =
      if k < 2 then .raised (.deviceIo (.register (regAddr s.cfg (bankOf s.sig.adcSel1) .dout))) (rmwRefused .dout s.sig.adcSel1 k s)
      else .raised (.deviceIo (.register (regAddr s.cfg (bankOf s.sig.adcSel2) .dout)))
        (rmwRefused .dout s.sig.adcSel2 (k - 2) (rmwDone .dout s.sig.adcSel1 (s.cfg.adcMuxCode.get dev).1 s)) :=
  writeLevels_refused hm hk h hn s.sig.adcSel1 (s.cfg.adcMuxCode.get dev).1 (fun t => t.sig.adcSel2)
    (fun t => (t.cfg.adcMuxCode.get dev).2)

/-- The capture of `a` samples and then of `b` more. -/
theorem captureSamples_add (chan : AdcChan) (x : Word) (a b i : Nat) (s : State) :
    captureSamples chan x (a + b) i s = (captureSamples chan x a i s).andThen fun _ t => captureSamples chan x b (i + a) t := by
  induction a generalizing i s with
  | zero => rw [Nat.zero_add]; rfl
  | succ a ih =>
    rw [Nat.add_right_comm, captureSamples, captureSamples]
    cases spiXfer (s.cfg.cmdSelect.get chan) (enter (.msSample i) s) with
    | done r t => exact (ih (i + 1) _).trans (by rw [Nat.add_right_comm i 1 a]; rfl)
    | rejected r t => rfl
    | raised f t => rfl

/-- The capture when its transfer number `k` is the first refused: the samples before it are stored (spec/46_measurement.md
R280). -/
theorem captureSamples_refused (chan : AdcChan) (x : Word) {m k : Nat} (i : Nat) (s : State) (hc : s.spi.cfg = .configured)
    (hi : i ≤ s.st.buf.length) (hk : k < m) (h : xfersGranted k s) (hn : ¬ xfersGranted (k + 1) s) :
    ∃ t, Captured chan k i s t ∧ captureSamples chan x m i s =
      .raised (.deviceIo .spi) (xferRefused (s.cfg.cmdSelect.get chan) (enter (.msSample (i + k)) t)) := by
  obtain ⟨t, ht, hd⟩ := captureSamples_granted chan x k i s hc hi h
  obtain ⟨r, rfl⟩ := Nat.exists_eq_add_of_le (show k + 1 ≤ m by omega)
  have e1 : t.env.xferOk = s.env.xferOk.drop k := by rw [hd.eq]
  have e2 : t.cfg = s.cfg := by rw [hd.eq]; rfl
  have e3 : t.spi.cfg = .configured := by rw [hd.eq]; exact hc
  have hr : xferOk (enter (.msSample (i + k)) t) = false := by
    rw [xferOk_eq, enter_env, e1]; exact script_refused h hn
  refine ⟨t, hd, ?_⟩
  rw [Nat.add_assoc, captureSamples_add, ht, andThen_done, Nat.add_comm 1 r, captureSamples,
    spiXfer_refused (s := enter (.msSample (i + k)) t) e3 hr, andThen_raised, e2]

/-- What the device part of OMEASURE leaves when its transfer number `k` is the first refused (spec/46_measurement.md R273, R280). -/
structure AcquireRefused (dev : AdcDev) (chan : AdcChan) (n k : Nat) (s t : State) : Prop where
  eq : t = { later (4 + (k + 1) + (k - 2)) s with
    dout := rmwFile (rmwFile s.dout s.sig.adcSel1 (s.cfg.adcMuxCode.get dev).1) s.sig.adcSel2 (s.cfg.adcMuxCode.get dev).2
    seq := t.seq
    prio := t.prio
    prioFails := if prioGranted s then s.prioFails else s.prioFails + 1
    spi :=
      { s.spi with
        tx := ([s.cfg.cmdInit, s.cfg.cmdConfig][k]?).getD (s.cfg.cmdSelect.get chan)
        rx := (s.env.rx.take Config.freeRx k).getLastD s.spi.rx }
    st :=
      { s.st with
        n := n, dev := dev, chan := chan
        buf := ((s.env.rx.take Config.freeRx k).drop 3).map (decodeSample s.cfg) ++ s.st.buf.drop (k - 3) }
    env :=
      { (later (4 + (k + 1) + (k - 2)) s).env with
        accessOk := s.env.accessOk.drop 4
        xferOk := s.env.xferOk.drop (k + 1)
        rx := s.env.rx.drop k
        prioGranted := s.env.prioGranted.tail }
    trace := t.trace }

theorem acquire_refused (dev : AdcDev) (chan : AdcChan) (n : Nat) (x : Word) {s : State} {k : Nat} (hm : s.lc = .mapped)
    (hc : s.spi.cfg = .configured) (ha : accessesGranted 4 s) (hk : k < n + 3) (h : xfersGranted k s)
    (hn : ¬ xfersGranted (k + 1) s) :
    ∃ t, acquire dev chan n x s = .raised (.deviceIo .spi) t ∧ AcquireRefused dev chan n k s t := by
  have hr := script_refused h hn
  let s1 := measureStarted dev chan n s
  have e1 := measureStarted_eq dev chan n s
  have e2 := selectDevice_granted (dev := dev) (s := s1) hm ha
  let s2 := muxed dev s1
  have e3 := fun x1 => spiXfer_granted (s := enter .msInit s2) hc x1 s.cfg.cmdInit
  let s3 := xferDone s.cfg.cmdInit (enter .msInit s2)
  have e4 := fun x2 => spiXfer_granted (s := s3) hc x2 s.cfg.cmdConfig
  let s4 := xferDone s.cfg.cmdConfig s3
  match k, h, hn, hr, hk with
  | 0, _, _, hr, _ =>
    refine ⟨xferRefused s.cfg.cmdInit (enter .msInit s2), ?_, ⟨?_⟩⟩
    · simp only [acquire]
      rw [e1, e2, andThen_done]
      exact congrArg (Res.andThen · _) (spiXfer_refused (s := enter .msInit s2) hc hr s.cfg.cmdInit)
    · simp [xferRefused, s2, s1, measureStarted, muxed, enter, logEvent, rmwDone, Script.take, Nat.add_assoc]
  | 1, h, _, hr, _ =>
    obtain ⟨x1, -⟩ := (script_grants_succ _ _ _).1 h
    refine ⟨xferRefused s.cfg.cmdConfig s3, ?_, ⟨?_⟩⟩
    · simp only [acquire]
      rw [e1, e2, andThen_done]
      refine (congrArg (Res.andThen · _) (e3 x1)).trans ?_
      rw [andThen_done]
      exact congrArg (Res.andThen · _) (spiXfer_refused (s := s3) hc hr s.cfg.cmdConfig)
    · simp [xferRefused, s3, s2, s1, measureStarted, muxed, enter, logEvent, rmwDone, Script.take, xferDone, rxWord, Nat.add_assoc]
  | 2, h, _, hr, _ =>
    obtain ⟨x1, h⟩ := (script_grants_succ _ _ _).1 h
    obtain ⟨x2, -⟩ := (script_grants_succ _ _ _).1 h
    refine ⟨xferRefused (s.cfg.cmdSelect.get chan) (enter .msBurn s4), ?_, ⟨?_⟩⟩
    · simp only [acquire]
      rw [e1, e2, andThen_done]
      refine (congrArg (Res.andThen · _) (e3 x1)).trans ?_
      rw [andThen_done]
      refine (congrArg (Res.andThen · _) (e4 x2)).trans ?_
      rw [andThen_done]
      exact congrArg (Res.andThen · _) (spiXfer_refused (s := enter .msBurn s4) hc hr (s.cfg.cmdSelect.get chan))
    · simp [xferRefused, s4, s3, s2, s1, measureStarted, muxed, enter, logEvent, rmwDone, Script.take, xferDone, rxWord, Nat.add_assoc]
  | k + 3, h, hn, hr, hk =>
    obtain ⟨h, h'⟩ := (script_grants_add _ 3 k _).1 (show s.env.xferOk.grants Config.freeXferOk (3 + k) = true by
      rwa [Nat.add_comm])
    have hn' : ¬ xfersGranted (k + 1) (burnt dev chan n x s) := fun h3 => hn (by
      rw [xfersGranted, show k + 3 + 1 = 3 + (k + 1) by omega]
      exact (script_grants_add _ 3 (k + 1) _).2 ⟨h, h3⟩)
    obtain ⟨t, hd, e6⟩ := captureSamples_refused chan x (m := n) 0 (burnt dev chan n x s) hc (Nat.zero_le _) (by omega) h' hn'
    refine ⟨_, (acquire_burnt dev chan n x hm hc ha h).trans e6, ⟨?_⟩⟩
    rw [show 4 + (k + 3 + 1) + (k + 3 - 2) = 8 + (2 * k + 1) by omega, hd.eq, burnt_eq]
    simp [xferRefused, enter, logEvent, Script.take, script_total_add, script_drop_drop, Nat.add_assoc, Nat.add_comm 3 k,
      -script_drop_succ, -script_total_succ, -List.getLastD_eq_getLast?, List.getLastD_cons]
    exact ⟨rfl, rfl⟩

end Sys2Proof.Machine
end

