-- ==== Sys2Proof/Laws/Stats.lean ====
section
/-! SUPPORT. The statistics of a list of sample codes: its sums, its extremes, its two sides, and the inequalities between
them. -/

namespace Sys2Proof.Machine

theorem sumCodes_eq (xs : List Code) : sumCodes xs = (xs.map fun x => x.toNat).sum := by
  induction xs with
  | nil => rfl
  | cons x xs ih => simp [sumCodes, ih]

theorem sumSqCodes_eq (xs : List Code) : sumSqCodes xs = (xs.map fun x => x.toNat * x.toNat).sum := by
  induction xs with
  | nil => rfl
  | cons x xs ih => simp [sumSqCodes, ih]

/-- No sample is below the least one. -/
theorem minCode_le {xs : List Code} {x : Code} (h : x ∈ xs) : (minCode xs).toNat ≤ x.toNat := by
  induction xs with
  | nil => simp at h
  | cons y xs ih =>
    simp only [minCode]
    rcases List.mem_cons.1 h with rfl | h <;> split <;> grind

/-- No sample is above the greatest one. -/
theorem le_maxCode {xs : List Code} {x : Code} (h : x ∈ xs) : x.toNat ≤ (maxCode xs).toNat := by
  induction xs with
  | nil => simp at h
  | cons y xs ih =>
    simp only [maxCode]
    rcases List.mem_cons.1 h with rfl | h <;> split <;> grind

/-- The least sample is a sample. -/
theorem minCode_mem {xs : List Code} (h : xs ≠ []) : minCode xs ∈ xs := by
  induction xs with
  | nil => exact absurd rfl h
  | cons y xs ih =>
    simp only [minCode]
    split
    · simp
    · rename_i hlt
      by_cases hx : xs = []
      · subst hx
        have := y.isLt
        exact absurd (show y.toNat ≤ (minCode []).toNat by simp [minCode]; omega) hlt
      · exact List.mem_cons_of_mem _ (ih hx)

/-- The greatest sample is a sample. -/
theorem maxCode_mem {xs : List Code} (h : xs ≠ []) : maxCode xs ∈ xs := by
  induction xs with
  | nil => exact absurd rfl h
  | cons y xs ih =>
    simp only [maxCode]
    split
    · simp
    · rename_i hlt
      by_cases hx : xs = []
      · subst hx
        exact absurd (show (maxCode []).toNat ≤ y.toNat by simp [maxCode]) hlt
      · exact List.mem_cons_of_mem _ (ih hx)

/-- A lower bound of every sample bounds the sum. -/
theorem mul_length_le_sumCodes {xs : List Code} {b : Nat} (h : ∀ x ∈ xs, b ≤ x.toNat) : b * xs.length ≤ sumCodes xs := by
  induction xs with
  | nil => simp [sumCodes]
  | cons y xs ih =>
    have h1 := h y (by simp)
    have h2 := ih fun x hx => h x (by simp [hx])
    simp only [List.length_cons, Nat.mul_succ, sumCodes]
    omega

/-- An upper bound of every sample bounds the sum. -/
theorem sumCodes_le_mul_length {xs : List Code} {b : Nat} (h : ∀ x ∈ xs, x.toNat ≤ b) : sumCodes xs ≤ b * xs.length := by
  induction xs with
  | nil => simp [sumCodes]
  | cons y xs ih =>
    have h1 := h y (by simp)
    have h2 := ih fun x hx => h x (by simp [hx])
    simp only [List.length_cons, Nat.mul_succ, sumCodes]
    omega

/-- The square of the sum is at most the number of samples times the sum of the squares. -/
theorem sumCodes_sq_le (xs : List Code) : sumCodes xs * sumCodes xs ≤ sumSqCodes xs * xs.length := by
  induction xs with
  | nil => simp [sumCodes]
  | cons y xs ih =>
    simp only [sumCodes, sumSqCodes, List.length_cons]
    have h2 : 2 * y.toNat * sumCodes xs ≤ y.toNat * y.toNat * xs.length + sumSqCodes xs := by
      clear ih
      induction xs with
      | nil => simp [sumCodes, sumSqCodes]
      | cons z zs ih =>
        simp only [sumCodes, sumSqCodes, List.length_cons]
        have h3 : 2 * y.toNat * z.toNat ≤ y.toNat * y.toNat + z.toNat * z.toNat := by
          rcases Nat.le_total y.toNat z.toNat with h | h <;> nlinarith [Nat.mul_le_mul h h]
        nlinarith
    nlinarith

/-- The samples above the threshold and those at or below it are all the samples. -/
theorem sideOf_lengths (thresh : Nat) (xs : List Code) :
    (sideOf thresh true xs).length + (sideOf thresh false xs).length = xs.length := by
  induction xs with
  | nil => rfl
  | cons x xs ih => by_cases h : thresh < x.toNat <;> simp_all [sideOf] <;> omega

theorem sideOf_above (thresh : Nat) (xs : List Code) :
    sideOf thresh true xs = xs.filter fun x => decide (thresh < x.toNat) := by simp [sideOf]

theorem sideOf_below (thresh : Nat) (xs : List Code) :
    sideOf thresh false xs = xs.filter fun x => decide (x.toNat ≤ thresh) := by
  simp only [sideOf]
  congr 1
  funext x
  by_cases h : thresh < x.toNat
  · simp [h]
  · simp [h]; omega

@[simp] theorem samples_vote (c : Config) (st : Stats) : samples (vote c st) = samples st := rfl
@[simp] theorem samples_firstPass (st : Stats) : samples (firstPass st) = samples st := rfl
@[simp] theorem samples_homeTest (c : Config) (st : Stats) : samples (homeTest c st) = samples st := rfl

/-- The majority side of a vote is at least half of the samples (spec/46_measurement.md R276, R278). -/
theorem vote_majority (c : Config) (st : Stats) :
    (samples st).length ≤ 2 * (sideOf c.threshCode (vote c st).measHigh (samples (vote c st))).length := by
  have h := sideOf_lengths c.threshCode (samples st)
  rw [samples_vote]
  by_cases hv : (sideOf c.threshCode false (samples st)).length < (sideOf c.threshCode true (samples st)).length <;>
    simp only [vote, hv, decide_true, decide_false] <;> omega

/-- The second pass when the majority side holds a sample (spec/46_measurement.md R277). -/
theorem refilter_some {c : Config} {st : Stats} (h : sideOf c.threshCode st.measHigh (samples st) ≠ []) :
    refilter c st = { st with
      min := minCode (sideOf c.threshCode st.measHigh (samples st))
      max := maxCode (sideOf c.threshCode st.measHigh (samples st))
      sumNum := sumCodes (sideOf c.threshCode st.measHigh (samples st)) * st.n
      sumsqNum := sumSqCodes (sideOf c.threshCode st.measHigh (samples st)) * st.n
      used := (sideOf c.threshCode st.measHigh (samples st)).length
      den := (sideOf c.threshCode st.measHigh (samples st)).length } := by
  have : (sideOf c.threshCode st.measHigh (samples st)).length ≠ 0 := by simpa using h
  simp only [refilter, if_neg this]

/-- The second pass when it holds none: the guarded division (spec/46_measurement.md R278). -/
theorem refilter_none {c : Config} {st : Stats} (h : sideOf c.threshCode st.measHigh (samples st) = []) :
    refilter c st = guardDivision st := by simp [refilter, h]

end Sys2Proof.Machine
end

