-- ==== Sys2Proof/Machine/Assembler.lean ====
section
/-! DEFINITION. The assembler syntax of spec/30_encoding.md R111 and the operand placement of R112: from one line of text to the
instruction whose frame it stands for. -/

namespace Sys2Proof.Machine

/-- An operand as written: a number, a power target or a step direction (spec/30_encoding.md R111). -/
inductive AsmOperand where
  | num (x : Int)
  | target (t : PowerTarget)
  | dir (d : StepDir)
deriving DecidableEq, Repr

/-- A number as an 8-bit field. -/
def asField8 (x : Int) : Option Field8 := if 0 ≤ x ∧ x < 256 then some (BitVec.ofInt 8 x) else none

/-- A number as an unsigned 32-bit word. -/
def asWord (x : Int) : Option Word := if 0 ≤ x ∧ x < 4294967296 then some (BitVec.ofInt 32 x) else none

/-- A number as a signed index. -/
def asIndex (x : Int) : Option Int := if fitsInt32 x then some x else none

/-- A Boolean operand, written 0 or 1. -/
def asBit (x : Int) : Option Bool := if x = 0 then some false else if x = 1 then some true else none

/-- An instruction with one signed index. -/
def placeIndex (mk : Int → Instr) : List AsmOperand → Option Instr
  | [.num x] => (asIndex x).map mk
  | _ => none

/-- An instruction with a signed index and a bit. -/
def placeIndexBit (mk : Int → Bool → Instr) : List AsmOperand → Option Instr
  | [.num x, .num b] => (asIndex x).bind fun x => (asBit b).map fun b => mk x b
  | _ => none

/-- An instruction with one 8-bit field. -/
def placeField (mk : Field8 → Instr) : List AsmOperand → Option Instr
  | [.num x] => (asField8 x).map mk
  | _ => none

/-- An instruction with one word. -/
def placeWord (mk : Word → Instr) : List AsmOperand → Option Instr
  | [.num x] => (asWord x).map mk
  | _ => none

/-- Whether a power target has an index: a USB port or a drive (spec/30_encoding.md R112, spec/44_power_enable.md R220). -/
def PowerTarget.hasIndex : PowerTarget → Bool
  | .usb | .drive => true
  | .board | .encoders | .sensors | .drivebank | .hicurrent | .sr => false

/-- An instruction with a power target and an index, which may be omitted (zero) for a target without an index only
(spec/30_encoding.md R112). -/
def placeTarget (mk : Field8 → Field8 → Instr) : List AsmOperand → Option Instr
  | [.target t] => if t.hasIndex then none else some (mk (targetCode t) 0)
  | [.target t, .num x] => (asField8 x).map fun i => mk (targetCode t) i
  | _ => none

/-- An instruction with no operand. -/
def placeNone (i : Instr) : List AsmOperand → Option Instr
  | [] => some i
  | _ => none

/-- The instruction of a mnemonic and its operands (spec/30_encoding.md R105, R112). -/
def assemble (mnemonic : String) (ops : List AsmOperand) : Option Instr :=
  if mnemonic = "GOPEN" then placeNone .gopen ops
  else if mnemonic = "GMAP" then placeNone .gmap ops
  else if mnemonic = "GRDLVL" then placeIndex .grdlvl ops
  else if mnemonic = "GWRLVL" then placeIndexBit .gwrlvl ops
  else if mnemonic = "GGETDIR" then placeIndex .ggetdir ops
  else if mnemonic = "GSETDIR" then placeIndexBit .gsetdir ops
  else if mnemonic = "GCFGALL" then placeNone .gcfgall ops
  else if mnemonic = "GRELEASE" then placeNone .grelease ops
  else if mnemonic = "PCONN" then placeIndex .pconn ops
  else if mnemonic = "PDEFDIR" then placeIndex .pdefdir ops
  else if mnemonic = "PSTEP" then placeField .pstep ops
  else if mnemonic = "PDIR" then placeField .pdir ops
  else if mnemonic = "PEN" then placeField .pen ops
  else if mnemonic = "PUSBOFF" then placeField .pusboff ops
  else if mnemonic = "SCFG" then placeNone .scfg ops
  else if mnemonic = "SXFER" then placeWord .sxfer ops
  else if mnemonic = "AENCINIT" then placeNone .aencinit ops
  else if mnemonic = "AENCCFG" then placeNone .aenccfg ops
  else if mnemonic = "AENCSEL" then placeField .aencsel ops
  else if mnemonic = "AENCFIFO" then placeNone .aencfifo ops
  else if mnemonic = "AENCPD" then placeNone .aencpd ops
  else if mnemonic = "ADECODE" then placeWord .adecode ops
  else if mnemonic = "ARAW2V" then
    match ops with
    | [.num raw, .num fs] => (asWord raw).bind fun raw => (asWord fs).map fun fs => .araw2v raw fs
    | _ => none
  else if mnemonic = "OENA" then placeTarget .oena ops
  else if mnemonic = "ODIS" then placeTarget .odis ops
  else if mnemonic = "OISENA" then placeTarget .oisena ops
  else if mnemonic = "OSETUSTEP" then placeField .osetustep ops
  else if mnemonic = "OGETUSTEP" then placeNone .ogetustep ops
  else if mnemonic = "OSTEP1" then
    match ops with
    | [.num drive, .dir d, .num freq] =>
      (asField8 drive).bind fun drive => (asWord freq).map fun freq => .ostep1 drive (stepDirCode d) freq
    | _ => none
  else if mnemonic = "OPHRESET" then placeNone .ophreset ops
  else if mnemonic = "OMEASURE" then
    match ops with
    | [.num dev, .num chan, .num n, .num settle] =>
      (asField8 dev).bind fun dev => (asField8 chan).bind fun chan => (asWord n).bind fun n =>
        (asWord settle).map fun settle => .omeasure dev chan n settle
    | _ => none
  else none

/-- The text before a comment, which starts with `;`. -/
def dropComment : List Char → List Char
  | [] => []
  | c :: cs => if c = ';' then [] else c :: dropComment cs

/-- The pieces of a text between commas. -/
def splitCommas : List Char → List (List Char)
  | [] => [[]]
  | c :: cs =>
    if c = ',' then [] :: splitCommas cs
    else
      match splitCommas cs with
      | [] => [[c]]
      | p :: ps => (c :: p) :: ps

/-- A text without spaces at either end. -/
def trimSpaces (cs : List Char) : List Char :=
  ((cs.dropWhile (· == ' ')).reverse.dropWhile (· == ' ')).reverse

/-- The value of a digit in a base of 10 or 16. -/
def digitValue (base : Nat) (c : Char) : Option Nat :=
  let v :=
    if '0' ≤ c ∧ c ≤ '9' then c.toNat - '0'.toNat
    else if 'a' ≤ c ∧ c ≤ 'f' then c.toNat - 'a'.toNat + 10
    else if 'A' ≤ c ∧ c ≤ 'F' then c.toNat - 'A'.toNat + 10
    else 16
  if v < base then some v else none

/-- A numeral read digit by digit. -/
def readDigits (base : Nat) : Nat → List Char → Option Nat
  | acc, [] => some acc
  | acc, c :: cs => (digitValue base c).bind fun v => readDigits base (acc * base + v) cs

/-- A decimal number, a negative decimal, or a `0x` hexadecimal (spec/30_encoding.md R111). -/
def readNumber : List Char → Option Int
  | [] => none
  | '-' :: c :: cs => (readDigits 10 0 (c :: cs)).map fun n => -(n : Int)
  | '0' :: 'x' :: c :: cs => (readDigits 16 0 (c :: cs)).map fun n => (n : Int)
  | c :: cs => (readDigits 10 0 (c :: cs)).map fun n => (n : Int)

/-- One written operand (spec/30_encoding.md R111). -/
def readOperand (cs : List Char) : Option AsmOperand :=
  let name := String.ofList cs
  if name = "BOARD" then some (.target .board)
  else if name = "ENCODERS" then some (.target .encoders)
  else if name = "SENSORS" then some (.target .sensors)
  else if name = "USB" then some (.target .usb)
  else if name = "DRIVEBANK" then some (.target .drivebank)
  else if name = "HICURRENT" then some (.target .hicurrent)
  else if name = "SR" then some (.target .sr)
  else if name = "DRIVE" then some (.target .drive)
  else if name = "NONE" then some (.dir .none)
  else if name = "EXTEND" then some (.dir .extend)
  else if name = "RETRACT" then some (.dir .retract)
  else (readNumber cs).map .num

/-- The operands of a line, in order; an empty text has none. -/
def readOperands (cs : List Char) : Option (List AsmOperand) :=
  if trimSpaces cs = [] then some [] else (splitCommas cs).mapM fun p => readOperand (trimSpaces p)

/-- One line of assembler text (spec/30_encoding.md R111, R112): the mnemonic up to the first space, then the operands. -/
def assembleLine (line : List Char) : Option Instr :=
  let text := trimSpaces (dropComment line)
  (readOperands (text.dropWhile (· != ' '))).bind fun ops => assemble (String.ofList (text.takeWhile (· != ' '))) ops

end Sys2Proof.Machine
end

