-- ==== Sys2Proof/Tests/Slice0.lean ====
section
/-! SUPPORT. Named tests: the checks of WellFormed, a written-out frame for every instruction, one or two vectors of
spec/95_test_vectors.md per instruction, and for every statement a state and operands that meet its hypotheses. Every expected
number is the spec's; the parameters are those of its test set P0. -/

namespace Sys2Proof.Tests

-- One theorem after another: the many kernel evaluations below would otherwise wait for each other in threads of their own.
set_option Elab.async false

open Sys2Proof Sys2Proof.Machine

/-! ### Helpers -/

/-- A script of these answers. -/
def script {α : Type} (answers : List α) : Script α := { answers := answers, asked := 0 }

/-- `n` favourable answers. -/
def yes (n : Nat) : Script Bool := script (List.replicate n true)

/-- Favourable answers of the environment, an external actor that does nothing, quiet pads, and a clock that
moves at its readings only. -/
def calm : Env where
  openOk := yes 1
  mapOk := yes 6
  spiOpenOk := yes 1
  ioctlOk := yes 6
  readback := script [0, 16, 1000000]
  accessOk := yes 90
  xferOk := yes 20
  rx := script []
  prioGranted := yes 2
  pads := script (List.replicate 4 (.replicate 6 0))
  gaps := script (List.replicate 120 0)
  ticks := script []
  actor := script (List.replicate 4 [])

/-- A board just reset, in a calm environment. -/
def fresh : State := { State.resetOf Config.p0 0 with env := calm }

/-- The bus configured. -/
def bus : Spi := { Spi.reset with cfg := .configured, mode := 0, bits := 16, speed := 1000000 }

/-- Mapped and configured; every line an output at level 0. -/
def ready : State :=
  { fresh with lc := .mapped, spi := bus, oe := .replicate 6 0, dout := .replicate 6 0 }

/-- Two registers of one bank set. -/
def withBank (k : BankIdx) (oe dout : Word) (s : State) : State :=
  { s with oe := s.oe.set k.val oe k.isLt, dout := s.dout.set k.val dout k.isLt }

/-- The first `n` accesses granted, the next one refused. -/
def grantOnly (n : Nat) (s : State) : State :=
  { s with env := { s.env with accessOk := script (List.replicate n true ++ [false]) } }

/-- The words the SPI slave will answer. -/
def slave (ws : List Word) (s : State) : State := { s with env := { s.env with rx := script ws } }

/-- The pads at the next reads of data-in, one word for each bank. -/
def pads (ws : List (Vector Word 6)) (s : State) : State := { s with env := { s.env with pads := script ws } }

/-- The ticks before the next clock readings. -/
def ticks (ts : List Nat) (s : State) : State := { s with env := { s.env with ticks := script ts } }

/-- The ticks that pass before the next accesses, transfers and steps. -/
def gaps (ts : List Nat) (s : State) : State := { s with env := { s.env with gaps := script ts } }

/-- A frame presented. -/
def presented (w0 w1 w2 : Word) (s : State) : State := { s with host := [.frame { w0 := w0, w1 := w1, w2 := w2 }] }

/-- The block halted by an index out of range. -/
def stopped : State :=
  { fresh with lc := .halted, fault := { cause := .invalidAddress, info := some (.invalidAddress 192), halted := true } }

/-- The state after an instruction. -/
def next (i : Instr) (s : State) : State :=
  match exec i s with
  | .next t => t
  | .fault _ | .refused _ => s

/-- The state after a step. -/
def stepped (s : State) : State :=
  match step s with
  | .next t => t
  | .fault _ | .refused _ => s

/-- The response to an instruction. -/
def answer (i : Instr) (s : State) : Option (List Word) := (next i s).out

/-- The register accesses an instruction completes. -/
def accesses (i : Instr) (s : State) : List Event := ((next i s).trace.drop s.trace.length).filter Event.isAccess

/-- A frame's 96 bits as one number. -/
def bits96 (w0 w1 w2 : Nat) : Nat := w0 + w1 * 2 ^ 32 + w2 * 2 ^ 64

theorem exec_next (i : Instr) (s : State) : exec i s = .next (next i s) := by cases i <;> rfl

/-! ### WellFormed refuses an index no frame can carry (spec/30_encoding.md R104) -/

theorem test_wf_grdlvl : WellFormed (.grdlvl 2147483648) = false := by decide
theorem test_wf_gwrlvl : WellFormed (.gwrlvl (-2147483649) true) = false := by decide
theorem test_wf_ggetdir : WellFormed (.ggetdir 2147483648) = false := by decide
theorem test_wf_gsetdir : WellFormed (.gsetdir (-2147483649) false) = false := by decide
theorem test_wf_pconn : WellFormed (.pconn (-2147483649)) = false := by decide
theorem test_wf_pdefdir : WellFormed (.pdefdir 2147483648) = false := by decide
theorem test_wf_extremes : WellFormed (.pconn (-2147483648)) = true ∧ WellFormed (.pconn 2147483647) = true := by decide

/-! ### One written-out frame for every instruction (spec/30_encoding.md R101 to R105, spec/95_test_vectors.md) -/

theorem decode_gopen : decodeTableWord 96 (bits96 0x01000000 0 0) = some .gopen := by decide
theorem decode_gmap : decodeTableWord 96 (bits96 0x02000000 0 0) = some .gmap := by decide
theorem decode_grdlvl : decodeTableWord 96 (bits96 0x03000000 0xB9 0) = some (.grdlvl 185) := by decide
theorem decode_gwrlvl : decodeTableWord 96 (bits96 0x04000100 0xFFFFFFFF 0) = some (.gwrlvl (-1) true) := by decide
theorem decode_ggetdir : decodeTableWord 96 (bits96 0x05000000 0x26 0) = some (.ggetdir 38) := by decide
theorem decode_gsetdir : decodeTableWord 96 (bits96 0x06000000 0x25 0) = some (.gsetdir 37 false) := by decide
theorem decode_gcfgall : decodeTableWord 96 (bits96 0x07000000 0 0) = some .gcfgall := by decide
theorem decode_grelease : decodeTableWord 96 (bits96 0x08000000 0 0) = some .grelease := by decide
theorem decode_pconn : decodeTableWord 96 (bits96 0x10000000 0xFFFFFFFB 0) = some (.pconn (-5)) := by decide
theorem decode_pdefdir : decodeTableWord 96 (bits96 0x11000000 0xC0 0) = some (.pdefdir 192) := by decide
theorem decode_pstep : decodeTableWord 96 (bits96 0x12050000 0 0) = some (.pstep 5) := by decide
theorem decode_pdir : decodeTableWord 96 (bits96 0x13010000 0 0) = some (.pdir 1) := by decide
theorem decode_pen : decodeTableWord 96 (bits96 0x14020000 0 0) = some (.pen 2) := by decide
theorem decode_pusboff : decodeTableWord 96 (bits96 0x15060000 0 0) = some (.pusboff 6) := by decide
theorem decode_scfg : decodeTableWord 96 (bits96 0x20000000 0 0) = some .scfg := by decide
theorem decode_sxfer : decodeTableWord 96 (bits96 0x21000000 0x50000000 0) = some (.sxfer 0x50000000) := by decide
theorem decode_aencinit : decodeTableWord 96 (bits96 0x30000000 0 0) = some .aencinit := by decide
theorem decode_aenccfg : decodeTableWord 96 (bits96 0x31000000 0 0) = some .aenccfg := by decide
theorem decode_aencsel : decodeTableWord 96 (bits96 0x320A0000 0 0) = some (.aencsel 10) := by decide
theorem decode_aencfifo : decodeTableWord 96 (bits96 0x33000000 0 0) = some .aencfifo := by decide
theorem decode_aencpd : decodeTableWord 96 (bits96 0x34000000 0 0) = some .aencpd := by decide
theorem decode_adecode : decodeTableWord 96 (bits96 0x35000000 0x599A1234 0) = some (.adecode 0x599A1234) := by decide
theorem decode_araw2v : decodeTableWord 96 (bits96 0x36000000 0x8000 0x4C4B40) = some (.araw2v 32768 5000000) := by decide
theorem decode_oena : decodeTableWord 96 (bits96 0x40020300 0 0) = some (.oena 3 2) := by decide
theorem decode_odis : decodeTableWord 96 (bits96 0x41060700 0 0) = some (.odis 7 6) := by decide
theorem decode_oisena : decodeTableWord 96 (bits96 0x42030300 0 0) = some (.oisena 3 3) := by decide
theorem decode_osetustep : decodeTableWord 96 (bits96 0x50040000 0 0) = some (.osetustep 4) := by decide
theorem decode_ogetustep : decodeTableWord 96 (bits96 0x51000000 0 0) = some .ogetustep := by decide
theorem decode_ostep1 : decodeTableWord 96 (bits96 0x52030200 0x3E8 0) = some (.ostep1 3 2 1000) := by decide
theorem decode_ophreset : decodeTableWord 96 (bits96 0x53000000 0 0) = some .ophreset := by decide
theorem decode_omeasure : decodeTableWord 96 (bits96 0x60050100 0x64 2) = some (.omeasure 1 5 100 2) := by decide

/-! ### Illegal frames (spec/95_test_vectors.md section 2.1) -/

theorem test_illegal_opcode : decode { w0 := 0x09000000, w1 := 0, w2 := 0 } = .error .unknownOpcode := by rfl
theorem test_illegal_field_c : decode { w0 := 0x01000001, w1 := 0, w2 := 0 } = .error .unusedField := by rfl
theorem test_illegal_field_a : decode { w0 := 0x03010000, w1 := 0, w2 := 0 } = .error .unusedField := by rfl
theorem test_illegal_w1 : decode { w0 := 0x01000000, w1 := 1, w2 := 0 } = .error .unusedField := by rfl
theorem test_illegal_w2 : decode { w0 := 0x21000000, w1 := 0x12345678, w2 := 1 } = .error .unusedField := by rfl
theorem test_illegal_bit : decode { w0 := 0x04000200, w1 := 0xC0, w2 := 0 } = .error .bitOperand := by rfl
theorem test_illegal_answer : (stepped (presented 0x04000200 0xC0 0 ready)).out = some [0x01010000] := by decide +kernel

/-! ### The parameters and the reset -/

theorem test_p0_valid : Config.p0.valid = true := by decide +kernel
theorem test_p0_signals : Config.p0.resolve.entries =
    [32, 33, 34, 35, 36, 37, 40, 41, 42, 43, 44, 45, 48, 49, 50, 51, 52, 53, 64, 65, 66, 67, 68, 69, 70, 96, 97, 98, 128, 129,
      160, 161, 162, 163, 164, 165] := by decide +kernel
theorem test_p0_threshold : Config.p0.threshCode = 22937 := by decide +kernel
theorem test_reset : fresh.lc = .closed ∧ fresh.oe.toList = List.replicate 6 0xFFFFFFFF ∧ fresh.dout.toList = List.replicate 6 0 ∧
    fresh.fault.cause.code = 0 := by decide +kernel
theorem test_first_step : (stepped (fresh.withFetchWord 96 0x01000000)).lc = .opened := by decide +kernel

/-! ### Family 0x0 (spec/95_test_vectors.md section 2.2) -/

theorem test_gopen : answer .gopen fresh = some [0] ∧ (next .gopen fresh).lc = .opened := by decide +kernel
theorem test_gopen_refused : answer .gopen ready = some [0x01040000] := by decide +kernel
theorem test_gmap : answer .gmap { fresh with lc := .opened } = some [0] ∧ (next .gmap { fresh with lc := .opened }).lc = .mapped := by
  decide +kernel
theorem test_gmap_fails :
    let s := next .gmap { fresh with lc := .opened, env := { calm with mapOk := script [true, true, true, false] } }
    s.lc = .halted ∧ s.fault = { cause := .fatalInit, info := some (.fatalInit (.map 3)), halted := true } ∧ s.out = none := by
  decide +kernel
theorem test_grdlvl : answer (.grdlvl 37) (withBank 1 0xFFFFFEDF 0x120 ready) = some [0, 1] := by decide +kernel
theorem test_grdlvl_pad : answer (.grdlvl 185) (pads [#v[0, 0, 0, 0, 0, 0x02000000]] (withBank 5 0xFFFFFFFF 0 ready)) = some [0, 1] := by
  decide +kernel
theorem test_gwrlvl : accesses (.gwrlvl 191 true) ready = [.read 0x4905803C 0, .write 0x4905803C 0x80000000] := by
  decide +kernel
theorem test_gwrlvl_clock : (next (.gwrlvl 191 true) (gaps [3, 5] ready)).clk = ready.clk + 8 := by decide +kernel
theorem test_gwrlvl_clear : (next (.gwrlvl 0 false) (withBank 0 0 0xFFFFFFFF ready)).dout[0] = 0xFFFFFFFE := by decide +kernel
theorem test_ggetdir_output : answer (.ggetdir 37) (withBank 1 0xFFFFFFDF 0 ready) = some [0, 0] := by decide +kernel
theorem test_ggetdir_input : answer (.ggetdir 38) (withBank 1 0xFFFFFFDF 0 ready) = some [0, 1] := by decide +kernel
theorem test_gsetdir : accesses (.gsetdir 37 false) (withBank 1 0xFFFFFFFF 0 ready) =
    [.read 0x49050034 0xFFFFFFFF, .write 0x49050034 0xFFFFFFDF] := by decide +kernel
theorem test_gsetdir_input : (next (.gsetdir 37 true) (withBank 1 0xFFFFFFDF 0 ready)).oe[1] = 0xFFFFFFFF := by decide +kernel
theorem test_gcfgall : (next .gcfgall { ready with oe := .replicate 6 0xFFFFFFFF }).oe.toList =
    [0xFFFFFFFF, 0xFFC0C0C0, 0xFFFFFF80, 0xFFFFFFF8, 0xFFFFFFFC, 0xFFFFFFC0] := by decide +kernel
theorem test_gcfgall_stops : (next .gcfgall (grantOnly 16 ready)).oe.toList = [0xFF, 0, 0, 0, 0, 0] ∧
    answer .gcfgall (grantOnly 16 ready) = some [0x02000000] := by decide +kernel
theorem test_grelease : (next .grelease ready).lc = .released ∧ answer .grelease fresh = some [0x01040000] := by decide +kernel

/-! ### Family 0x1 (section 2.3) -/

theorem test_pconn : answer (.pconn 10) fresh = some [0, 0xB9] := by decide +kernel
theorem test_pconn_absent : answer (.pconn (-5)) fresh = some [0, 0xFFFFFFFF] := by decide +kernel
theorem test_pdefdir : answer (.pdefdir 3) fresh = some [0, 1] := by decide +kernel
theorem test_pdefdir_untouched : answer (.pdefdir 100) fresh = some [0, 0xFFFFFFFF] := by decide +kernel
theorem test_pstep : answer (.pstep 3) fresh = some [0, 35] := by decide +kernel
theorem test_pdir : answer (.pdir 5) fresh = some [0, 45] := by decide +kernel
theorem test_pen : answer (.pen 5) fresh = some [0, 53] := by decide +kernel
theorem test_pusboff : answer (.pusboff 6) fresh = some [0, 70] := by decide +kernel
theorem test_pusboff_halts : (next (.pusboff 7) fresh).fault.halted = true ∧ answer (.pusboff 7) fresh = none := by decide +kernel

/-! ### Family 0x2 (section 2.4) -/

theorem test_scfg : answer .scfg fresh = some [0] ∧ (next .scfg fresh).spi = bus := by decide +kernel
theorem test_scfg_mismatch : (next .scfg { fresh with env := { calm with readback := script [0, 16, 500000] } }).fault =
    { cause := .fatalConfig, info := some (.fatalConfig .mismatch .speed), halted := true } := by decide +kernel
theorem test_sxfer : answer (.sxfer 0x50000000) (slave [0x599A0000] ready) = some [0, 0x599A0000] ∧
    (next (.sxfer 0x50000000) (slave [0x599A0000] ready)).spi.tx = 0x50000000 := by decide +kernel
theorem test_sxfer_unconfigured : answer (.sxfer 1) fresh = some [0x02000000] ∧ (next (.sxfer 1) fresh).fault.cause.code = 5 := by
  decide +kernel

/-! ### Family 0x3 (section 2.5) -/

theorem test_aencinit : answer .aencinit fresh = some [0, 0xA0000000] := by decide +kernel
theorem test_aenccfg : answer .aenccfg fresh = some [0, 0xA1000000] := by decide +kernel
theorem test_aencsel : answer (.aencsel 10) fresh = some [0, 0xB0000000] := by decide +kernel
theorem test_aencfifo : answer .aencfifo fresh = some [0, 0xE0000000] := by decide +kernel
theorem test_aencpd : answer .aencpd fresh = some [0, 0x80000000] := by decide +kernel
theorem test_adecode : answer (.adecode 0x599A1234) fresh = some [0, 0x599A] := by decide +kernel
theorem test_araw2v : answer (.araw2v 13108 5000000) fresh = some [0, 0x3FF00040, 0] := by decide +kernel
theorem test_araw2v_rounded : answer (.araw2v 65535 4294967295) fresh = some [0, 0x40B0C6E6, 0xD9AD85F0] := by decide +kernel

/-! ### Families 0x4 and 0x5 (section 2.6) -/

theorem test_oena : accesses (.oena 3 2) (withBank 2 0 0x7F ready) = [.read 0x4905203C 0x7F, .write 0x4905203C 0x7B] := by
  decide +kernel
theorem test_oena_bad_index : answer (.oena 0 1) ready = some [0x01030000] := by decide +kernel
theorem test_odis : accesses (.odis 6 0) ready = [.read 0x4905803C 0, .write 0x4905803C 0x20] := by decide +kernel
theorem test_oisena_on : answer (.oisena 3 2) (withBank 2 0 0x7B ready) = some [0, 1] := by decide +kernel
theorem test_oisena_off : answer (.oisena 3 3) (withBank 2 0 0x7B ready) = some [0, 0] := by decide +kernel
theorem test_osetustep : accesses (.osetustep 4) (withBank 3 0 1 ready) =
    [.read 0x4905403C 1, .write 0x4905403C 0, .read 0x4905403C 0, .write 0x4905403C 2] := by decide +kernel
theorem test_ogetustep : answer .ogetustep (withBank 3 0 2 ready) = some [0, 4] := by decide +kernel
theorem test_halfticks : [1, 1000, 3000, 600000000].map (halfTicks 1000000000) = [500000000, 500000, 166667, 1] := by
  decide +kernel
theorem test_ostep1 : accesses (.ostep1 3 1 1000) (ticks [0, 500000, 0, 500000] ready) =
    [.read 0x4905003C 0, .write 0x4905003C 0x800, .read 0x4905003C 0x800, .write 0x4905003C 0x808, .read 0x4905003C 0x808,
      .write 0x4905003C 0x800] := by decide +kernel
theorem test_ostep1_clock : (next (.ostep1 3 1 1000) (ticks [0, 500000, 0, 500000] ready)).clk = 1000000 := by decide +kernel
theorem test_ophreset : accesses .ophreset (withBank 3 0 4 (ticks [0, 5000000] ready)) =
    [.read 0x4905403C 4, .write 0x4905403C 0, .read 0x4905403C 0, .write 0x4905403C 4] := by decide +kernel

/-! ### Family 0x6 (section 2.7, row 6 and the argument checks) -/

/-- The answers of a measurement of row 6: three words that are dropped, then the samples. -/
def row6 : State := slave [0, 0, 0, 0x27100000, 0x75300000, 0x75940000, 0x74CC0000] ready

theorem test_omeasure : answer (.omeasure 0 5 4 0) row6 =
    some [0, 3, 4, 3, 29900, 30100, 3, 0, 360000, 0x2, 0x83BC2480, 0x40024F80, 0, 0x3F7983F8, 0xFF6BE335, 0x40023FE0, 0, 0x40025F20,
      0] := by decide +kernel
theorem test_omeasure_checks : answer (.omeasure 2 5 0 0) ready = some [0x01030000] ∧ answer (.omeasure 2 5 4 0) ready = none := by
  decide +kernel

/-! ### The boundary (section 2.8) and the assembler (spec/30_encoding.md R111) -/

theorem test_step_retract : expand Config.p0 (.step 4 (-2) 1000) = .ok [.ostep1 3 2 1000, .ostep1 3 2 1000] := by decide +kernel
theorem test_step_index : (runPseudo (.step 7 1 1000) ready).1 = .rejected 2 := by decide +kernel
theorem test_meas_all : (expand Config.p0 (.meas 1 0 10 0)).map List.length = .ok 8 := by decide +kernel
theorem test_meas_named : (runPseudo (.measNamed (.encoder 0) 4 0) row6).1 =
    .result [[0x40024F80, 0, 0x3F7983F8, 0xFF6BE335, 0x40023FE0, 0, 0x40025F20, 0]] := by decide +kernel
theorem test_assemble : assembleLine "OENA USB, 2".toList = some (.oena 3 2) := by decide +kernel
theorem test_assemble_omitted :
    assembleLine "OENA SR".toList = some (.oena 6 0) ∧ assembleLine "OENA USB".toList = none := by decide +kernel

/-! ### A state and operands for the hypotheses of every statement, clause by clause -/

theorem inv_fresh (host : List Input) : Inv { fresh with host := host } where
  cfgValid := test_p0_valid
  sigResolved := rfl
  seqIdle := fun _ => rfl
  prioNormal := rfl
  haltedIff := ⟨fun h => (by simp [fresh, State.resetOf] at h), fun h => (by simp [fresh, State.resetOf] at h)⟩
  haltCause := fun h => (by simp [fresh, State.resetOf] at h)
  faultInfo := rfl
  spiSettings := fun h => (by simp [fresh, State.resetOf, Spi.reset] at h)

theorem witness_StepRunsDecodedFrame :
    let s := presented 0x04000100 0x25 0 ready
    s.fault.halted = false ∧ s.seq = .idle ∧ s.host = [.frame { w0 := 0x04000100, w1 := 0x25, w2 := 0 }] ∧
      decode { w0 := 0x04000100, w1 := 0x25, w2 := 0 } = .ok (.gwrlvl 37 true) := ⟨rfl, rfl, rfl, rfl⟩

theorem witness_AcceptanceOrder :
    ((presented 0x01000000 0 0 stopped).host.head? ≠ some .reset ∧ (presented 0x01000000 0 0 stopped).fault.halted = true) ∧
    (({ fresh with seq := .run } : State).host.head? ≠ some .reset ∧ ({ fresh with seq := .run } : State).fault.halted = false ∧
      ({ fresh with seq := .run } : State).seq ≠ .idle) ∧
    (fresh.host.head? ≠ some .reset ∧ fresh.fault.halted = false ∧ fresh.seq = .idle ∧ fresh.host = []) := by decide +kernel

theorem witness_IllegalFrames :
    let s := presented 0x04000200 0xC0 0 fresh
    s.fault.halted = false ∧ s.seq = .idle ∧ s.host = [.frame { w0 := 0x04000200, w1 := 0xC0, w2 := 0 }] ∧
      decode { w0 := 0x04000200, w1 := 0xC0, w2 := 0 } = .error .bitOperand := ⟨rfl, rfl, rfl, rfl⟩

theorem witness_DecodeEncode : WellFormed (.gwrlvl (-2147483648) true) = true := by decide

theorem witness_EncodeDecode : decode { w0 := 0x60050100, w1 := 0xFFFFFFFF, w2 := 2 } = .ok (.omeasure 1 5 0xFFFFFFFF 2) := rfl

theorem witness_StepKeepsInv :
    let s : State := { fresh with host := [.frame { w0 := 0x01000000, w1 := 0, w2 := 0 }] }
    Inv s ∧ step s = .next (stepped s) := ⟨inv_fresh _, rfl⟩

theorem witness_ResetValues : ({ stopped with host := [.reset] } : State).host = .reset :: [] := rfl

theorem witness_RegisterAddresses :
    Config.p0.valid = true ∧ regAt Config.p0 0x48310034 = some (0, .oe) ∧ regAt Config.p0 0x4905803C = some (5, .dout) := by
  decide +kernel

theorem witness_OnlyNamedBitsChange :
    exec (.gwrlvl 191 true) ready = .next (next (.gwrlvl 191 true) ready) ∧
      (.dout, 190) ∉ storedBits (.gwrlvl 191 true) ready := ⟨rfl, by decide +kernel⟩

theorem witness_BytesOutsideStoresUnchanged :
    (exec (.gwrlvl 191 true) ready = .next (next (.gwrlvl 191 true) ready) ∧
      (∀ k, 0x48310037#32 &&& ~~~3#32 ≠ regAddr ready.cfg k .din) ∧
      ∀ p ∈ storedBits (.gwrlvl 191 true) ready, 0x48310037#32 &&& ~~~3#32 ≠ regAddr ready.cfg (bankOf p.2) p.1.toReg) ∧
    (exec (.grdlvl 191) ready = .next (next (.grdlvl 191) ready) ∧ storedBits (.grdlvl 191) ready = []) :=
  ⟨⟨rfl, by decide +kernel⟩, rfl, rfl⟩

theorem witness_SpecialStateFrame :
    exec (.grdlvl 37) ready = .next (next (.grdlvl 37) ready) ∧ Instr.grdlvl 37 ≠ .scfg ∧ (∀ w, Instr.grdlvl 37 ≠ .sxfer w) ∧
      (∀ d c n x, Instr.grdlvl 37 ≠ .omeasure d c n x) ∧ (∀ m, Instr.grdlvl 37 ≠ .osetustep m) ∧ Instr.grdlvl 37 ≠ .ogetustep ∧
      (∀ d r f, Instr.grdlvl 37 ≠ .ostep1 d r f) ∧ Instr.grdlvl 37 ≠ .ophreset ∧ Instr.grdlvl 37 ≠ .gopen ∧
      Instr.grdlvl 37 ≠ .gmap ∧ Instr.grdlvl 37 ≠ .grelease ∧
      ((next (.grdlvl 37) ready).out ≠ none ∧ (next (.grdlvl 37) ready).out ≠ some [0x02000000]) ∧
      exec .gopen ready = .next (next .gopen ready) ∧ (next .gopen ready).out ≠ none ∧
      (next .gopen ready).out ≠ some [0x02000000] :=
  ⟨rfl, by simp, by simp, by simp, by simp, by simp, by simp, by simp, by simp, by simp, by simp, by decide +kernel, rfl,
    by decide +kernel, by decide +kernel⟩

theorem witness_ClockAndPadsMoveFreely :
    (let s := presented 0x52030100 0x3E8 0 (ticks [0, 500000, 0, 500000] ready)
     step s = .next (stepped s)) ∧
    (let s := gaps [3, 5] ready
     s.env.gaps.answers = 3 :: 5 :: [] ∧ (∃ x u, memRead 5 .dout s = .done x u) ∧ s.lc = .mapped ∧ accessesGranted 2 s ∧
      s.spi.cfg = .configured ∧ s.host = [] ∧ step s = .next (stepped s)) ∧
    (let s := pads [#v[1, 0, 1, 0, 1, 0]] (withBank 2 1 0 ready)
     s.env.pads.answers = #v[1, 0, 1, 0, 1, 0] :: [] ∧ lineBit s.oe 64 = true) :=
  ⟨rfl, ⟨rfl, ⟨_, _, rfl⟩, rfl, by decide +kernel, rfl, rfl, rfl⟩, rfl, by decide +kernel⟩

theorem witness_ExternalActor :
    let w : ActorWrite := { latch := .oe, bank := 5, value := 0 }
    actorWrites { ready with env := { calm with actor := script [[w]] } } = [w] := rfl

theorem witness_ResponseFrames : ready.fault.halted = false := rfl

theorem witness_Gopen :
    ready.lc ≠ .closed ∧ (fresh.lc = .closed ∧ openOk fresh = true) ∧
    ∃ s : State, s.lc = .closed ∧ openOk s = false :=
  ⟨by decide +kernel, by decide +kernel, { fresh with env := { calm with openOk := script [false] } }, by decide +kernel⟩

/-- A board whose device is open, with these answers to the mappings. -/
def opened (answers : List Bool) : State := { fresh with lc := .opened, env := { calm with mapOk := script answers } }

theorem witness_Gmap :
    fresh.lc ≠ .opened ∧
    ((opened (List.replicate 6 true)).lc = .opened ∧
      (opened (List.replicate 6 true)).env.mapOk.grants Config.freeMapOk 6 = true) ∧
    ((opened [false]).lc = .opened ∧ (opened [false]).env.mapOk.grants Config.freeMapOk (0 : BankIdx).val = true ∧
      ((opened [false]).env.mapOk.drop (0 : BankIdx).val).head Config.freeMapOk = false) ∧
    ((opened [true, true, true, true, true, false]).lc = .opened ∧
      (opened [true, true, true, true, true, false]).env.mapOk.grants Config.freeMapOk (5 : BankIdx).val = true ∧
      ((opened [true, true, true, true, true, false]).env.mapOk.drop (5 : BankIdx).val).head Config.freeMapOk = false) := by
  decide +kernel

theorem witness_Grelease : fresh.lc ≠ .mapped ∧ ready.lc = .mapped := by decide +kernel

theorem witness_PinChecked : (-1 : Int) < 0 ∧ (192 : Int) ≤ 192 ∧ fresh.lc ≠ .mapped := by decide +kernel

theorem witness_Grdlvl_Ggetdir :
    (ready.lc = .mapped ∧ accessOk ready = true) ∧ ((grantOnly 0 ready).lc = .mapped ∧ accessOk (grantOnly 0 ready) = false) := by
  decide +kernel

theorem witness_Gwrlvl_Gsetdir :
    (ready.lc = .mapped ∧ accessesGranted 2 ready) ∧ ((grantOnly 0 ready).lc = .mapped ∧ accessOk (grantOnly 0 ready) = false) ∧
    ((grantOnly 1 ready).lc = .mapped ∧ accessOk (grantOnly 1 ready) = true ∧
      accessOk (tookAccess (grantOnly 1 ready)) = false) := by decide +kernel

theorem witness_Gcfgall :
    fresh.lc ≠ .mapped ∧ (ready.lc = .mapped ∧ accessesGranted (2 * (configuredLines ready.cfg).length) ready) ∧
    ((grantOnly 0 ready).lc = .mapped ∧ (configuredLines ready.cfg)[0 / 2]? = some 0 ∧ accessesGranted 0 (grantOnly 0 ready) ∧
      ¬ accessesGranted (0 + 1) (grantOnly 0 ready)) ∧
    ((grantOnly 87 ready).lc = .mapped ∧ (configuredLines ready.cfg)[87 / 2]? = some 165 ∧
      accessesGranted 87 (grantOnly 87 ready) ∧ ¬ accessesGranted (87 + 1) (grantOnly 87 ready)) := by decide +kernel

/-- Enough granted accesses for two whole configurations. -/
def patient : State := { ready with env := { calm with accessOk := yes 176 } }

theorem witness_GcfgallOrderAndRepeat :
    (List.Perm (List.finRange 192) (List.finRange 192) ∧
      accessesGranted (2 * (configuredLines patient.cfg).length) patient) ∧
    (patient.lc = .mapped ∧ accessesGranted (4 * (configuredLines patient.cfg).length) patient ∧
      exec .gcfgall patient = .next (next .gcfgall patient)) :=
  ⟨⟨List.Perm.refl _, by decide +kernel⟩, rfl, by decide +kernel, rfl⟩

theorem witness_WriteThenRead :
    (ready.lc = .mapped ∧ accessesGranted 3 ready ∧ lineBit ready.oe 191 = false ∧
      exec (.gwrlvl ((191 : Line).val : Int) true) ready = .next (next (.gwrlvl ((191 : Line).val : Int) true) ready)) ∧
    ((0 : Line) ≠ 191 ∧ ready.lc = .mapped ∧ accessesGranted 4 ready) :=
  ⟨⟨rfl, by decide +kernel, by decide +kernel, rfl⟩, by decide, rfl, by decide +kernel⟩

theorem witness_Pconn : (0 : Int) < 1 ∧ (140 : Int) < 141 ∧ fresh.cfg.valid = true := by decide +kernel

theorem witness_Pdefdir : (-1 : Int) < 0 ∧ (191 : Int) < 192 := by decide

theorem witness_SignalAccessors :
    (Instr.pen, fresh.sig.en) ∈ [(Instr.pstep, fresh.sig.step), (Instr.pdir, fresh.sig.dir), (Instr.pen, fresh.sig.en)] ∧
      6 ≤ (6#8).toNat ∧ 6 ≤ (255#8).toNat ∧ Instr.pstep ∈ [Instr.pstep, .pdir, .pen] ∧ 7 ≤ (7#8).toNat :=
  ⟨by simp, by decide, by decide, by simp, by decide⟩

/-- An unconfigured bus with these answers. -/
def bare (open_ : Bool) (calls : List Bool) (values : List Nat) : State :=
  { fresh with env := { calm with spiOpenOk := script [open_], ioctlOk := script calls, readback := script values } }

theorem witness_Scfg :
    ready.spi.cfg = .configured ∧ ((bare false [] []).spi.cfg ≠ .configured ∧ spiOpenOk (bare false [] []) = false) ∧
    (let s := bare true [true, true, false] [];
      [SpiSetting.mode, .bits, .speed][2]? = some .speed ∧ s.spi.cfg ≠ .configured ∧ spiOpenOk s = true ∧
        s.env.ioctlOk.grants Config.freeIoctlOk 2 = true ∧ (s.env.ioctlOk.drop 2).head Config.freeIoctlOk = false) ∧
    (let s := bare true [true, true, true, true, false] [0];
      [SpiSetting.mode, .bits, .speed][1]? = some .bits ∧ s.spi.cfg ≠ .configured ∧ spiOpenOk s = true ∧
        s.env.ioctlOk.grants Config.freeIoctlOk (3 + 1) = true ∧
        s.env.readback.take Config.freeReadback 1 = [s.cfg.spiMode.val, 16, s.cfg.spiSpeedHz].take 1 ∧
        (s.env.ioctlOk.drop (3 + 1)).head Config.freeIoctlOk = false) ∧
    (let s := bare true [true, true, true, true] [1];
      [SpiSetting.mode, .bits, .speed][0]? = some .mode ∧ s.spi.cfg ≠ .configured ∧ spiOpenOk s = true ∧
        s.env.ioctlOk.grants Config.freeIoctlOk (4 + 0) = true ∧
        s.env.readback.take Config.freeReadback 0 = [s.cfg.spiMode.val, 16, s.cfg.spiSpeedHz].take 0 ∧
        some ((s.env.readback.drop 0).head Config.freeReadback) ≠ [s.cfg.spiMode.val, 16, s.cfg.spiSpeedHz][0]?) ∧
    (let s := bare true (List.replicate 6 true) [0, 16, 1000000];
      s.spi.cfg ≠ .configured ∧ spiOpenOk s = true ∧ s.env.ioctlOk.grants Config.freeIoctlOk 6 = true ∧
        s.env.readback.take Config.freeReadback 3 = [s.cfg.spiMode.val, 16, s.cfg.spiSpeedHz]) := by decide +kernel

theorem witness_Sxfer :
    (ready.spi.cfg = .configured ∧ xferOk ready = true) ∧
    (let s : State := { ready with env := { calm with xferOk := script [false] } };
      s.spi.cfg = .configured ∧ xferOk s = false) ∧ fresh.spi.cfg ≠ .configured := by decide +kernel

theorem witness_CodecCommandWords : 12 ≤ (12#8).toNat ∧ 12 ≤ (255#8).toNat := by decide

theorem witness_Araw2v : 65535 < (65536#32).toNat ∧ (65535#32).toNat ≤ 65535 := by decide

theorem witness_RoundBinary64Nearest :
    0 < 65536000000 ∧ 1 < 65536000000 * 2 ^ 1023 ∧ isFinite64 (roundBinary64 1 65536000000) ∧ isFinite64 0 ∧
    2 < 65536000000 * 2 ^ 2046 ∧ isFinite64 (roundSqrtBinary64 2 65536000000) := by
  unfold isFinite64
  decide +kernel

theorem witness_PowerTargets :
    (7 < (8#8).toNat ∧ (6#8 ∈ [0#8, 1#8, 2#8, 4#8, 5#8, 6#8] ∧ (1 : Field8) ≠ 0) ∧ 7 ≤ (7#8).toNat ∧ 6 ≤ (6#8).toNat) ∧
    (fresh.lc ≠ .mapped ∧ powerLineOf fresh.sig 7 5 = some 53) ∧ powerLineOf fresh.sig 3 6 = some 70 := by decide +kernel

theorem witness_EnableAndDisable :
    (powerLineOf ready.sig 6 0 = some 165 ∧ ready.lc = .mapped ∧ accessesGranted 2 ready) ∧
    ∀ k ∈ [0, 1], powerLineOf (grantOnly k ready).sig 0 0 = some 160 ∧ (grantOnly k ready).lc = .mapped ∧
      accessesGranted k (grantOnly k ready) ∧ ¬ accessesGranted (k + 1) (grantOnly k ready) := by decide +kernel

theorem witness_Oisena :
    (powerLineOf ready.sig 7 0 = some 48 ∧ ready.lc = .mapped ∧ accessOk ready = true) ∧
    (powerLineOf (grantOnly 0 ready).sig 3 0 = some 64 ∧ (grantOnly 0 ready).lc = .mapped ∧
      accessOk (grantOnly 0 ready) = false) := by decide +kernel

theorem witness_EnableSymmetry :
    powerLineOf ready.sig 4 0 = some 163 ∧ ready.lc = .mapped ∧ accessesGranted 3 ready ∧ lineBit ready.oe 163 = false ∧
      exec (.oena 4 0) ready = .next (next (.oena 4 0) ready) :=
  ⟨by decide +kernel, rfl, by decide +kernel, by decide +kernel, rfl⟩

theorem witness_Osetustep :
    3#8 ∉ [1#8, 2#8, 4#8, 8#8] ∧
    ((8#8, UStepMode.m8, ready.cfg.ustepCode.c8) ∈
        [(1#8, .m1, ready.cfg.ustepCode.c1), (2#8, .m2, ready.cfg.ustepCode.c2), (4#8, .m4, ready.cfg.ustepCode.c4),
          (8#8, .m8, ready.cfg.ustepCode.c8)] ∧
      ready.sig.ms1 ≠ ready.sig.ms2 ∧ ready.lc = .mapped ∧ accessesGranted 4 ready) ∧
    (∀ k ∈ [0, 1, 2, 3], (grantOnly k ready).sig.ms1 ≠ (grantOnly k ready).sig.ms2 ∧ (grantOnly k ready).lc = .mapped ∧
      accessesGranted k (grantOnly k ready) ∧ ¬ accessesGranted (k + 1) (grantOnly k ready)) ∧
    (fresh.sig.ms1 ≠ fresh.sig.ms2 ∧ fresh.lc ≠ .mapped) := by decide +kernel

theorem witness_Ogetustep :
    (let s := withBank 3 0 2 ready;
      s.cfg.valid = true ∧ s.lc = .mapped ∧ accessesGranted 2 s ∧ seenLevel s.sig.ms1 s = s.cfg.ustepCode.c4.getLsbD 0 ∧
        seenLevel s.sig.ms2 (tookPads s) = s.cfg.ustepCode.c4.getLsbD 1) ∧
    fresh.lc ≠ .mapped ∧
    ∀ k ∈ [0, 1], (grantOnly k ready).lc = .mapped ∧ accessesGranted k (grantOnly k ready) ∧
      ¬ accessesGranted (k + 1) (grantOnly k ready) := by decide +kernel

theorem witness_UstepRoundTrip :
    ready.cfg.valid = true ∧ ready.sig = ready.cfg.resolve ∧ 8#8 ∈ [1#8, 2#8, 4#8, 8#8] ∧ ready.lc = .mapped ∧
      accessesGranted 6 ready ∧ lineBit ready.oe ready.sig.ms1 = false ∧ lineBit ready.oe ready.sig.ms2 = false ∧
      exec (.osetustep 8) ready = .next (next (.osetustep 8) ready) :=
  ⟨test_p0_valid, rfl, by decide, rfl, by decide +kernel, by decide +kernel, by decide +kernel, rfl⟩

theorem witness_HalfTicksLeast : 1 ≤ 4294967295 ∧ halfTicks 1000000000 4294967295 ≤ 1 := by decide +kernel

theorem witness_Ostep1 :
    ((0#8, none) ∈ [(0#8, none), (1#8, some ready.cfg.dirLevelExtend), (2#8, some (!ready.cfg.dirLevelExtend))] ∧
      (2#8, some (!ready.cfg.dirLevelExtend)) ∈
        [(0#8, none), (1#8, some ready.cfg.dirLevelExtend), (2#8, some (!ready.cfg.dirLevelExtend))]) ∧
    (1 : Word) ≠ 0 ∧ ready.lc = .mapped ∧ accessesGranted 4 ready ∧ accessesGranted 6 ready := by decide +kernel

theorem witness_Ostep1Checks :
    2 < (3#8).toNat ∧ ((2#8).toNat ≤ 2 ∧ (1 : Word) ≠ 0 ∧ 6 ≤ (6#8).toNat) ∧ ((5#8).toNat < 6 ∧ fresh.lc ≠ .mapped) ∧
    ((0#8, none) ∈ [(0#8, none), (1#8, some ready.cfg.dirLevelExtend), (2#8, some (!ready.cfg.dirLevelExtend))] ∧
      (2#8, some (!ready.cfg.dirLevelExtend)) ∈
        [(0#8, none), (1#8, some ready.cfg.dirLevelExtend), (2#8, some (!ready.cfg.dirLevelExtend))]) ∧
    ready.lc = .mapped ∧ ∀ k ∈ [0, 1, 3, 5], accessesGranted k (grantOnly k ready) ∧ ¬ accessesGranted (k + 1) (grantOnly k ready) := by
  decide +kernel

theorem witness_StepPulseActions :
    (1 : Word) ≠ 0 ∧ ready.lc = .mapped ∧
    ((0#8, none) ∈ [(0#8, none), (1#8, some ready.cfg.dirLevelExtend), (2#8, some (!ready.cfg.dirLevelExtend))] ∧
      accessesGranted (0 + 2) ready ∧ accessesGranted (0 + 4) ready ∧
      (accessesGranted (0 + 2) (grantOnly 2 ready) ∧ ¬ accessesGranted (0 + 4) (grantOnly 2 ready))) ∧
    ((1#8, some ready.cfg.dirLevelExtend) ∈
        [(0#8, none), (1#8, some ready.cfg.dirLevelExtend), (2#8, some (!ready.cfg.dirLevelExtend))] ∧
      accessesGranted (2 + 4) ready ∧ accessesGranted (2 + 3) (grantOnly 5 ready) ∧
      ¬ accessesGranted (2 + 4) (grantOnly 5 ready)) := by decide +kernel

theorem witness_ElevationChangesNothing :
    let t : State := { ready with env := { ready.env with prioGranted := script [false] } }
    (∃ d r f, Instr.ostep1 5 1 1000 = .ostep1 d r f) ∧ exec (.ostep1 5 1 1000) ready = .next (next (.ostep1 5 1 1000) ready) ∧
      exec (.ostep1 5 1 1000) t = .next (next (.ostep1 5 1 1000) t) := ⟨⟨5, 1, 1000, rfl⟩, rfl, rfl⟩

theorem witness_Ophreset :
    (ready.lc = .mapped ∧ accessesGranted 4 ready) ∧
    (∀ k ∈ [0, 1], (grantOnly k ready).lc = .mapped ∧ accessesGranted k (grantOnly k ready) ∧
      ¬ accessesGranted (k + 1) (grantOnly k ready)) ∧
    (∀ k ∈ [0, 1], (grantOnly (2 + k) ready).lc = .mapped ∧ accessesGranted (2 + k) (grantOnly (2 + k) ready) ∧
      ¬ accessesGranted (2 + k + 1) (grantOnly (2 + k) ready)) ∧
    fresh.lc ≠ .mapped := by decide +kernel

theorem witness_Omeasure_MeasurementWordSequence :
    ready.lc = .mapped ∧ ready.spi.cfg = .configured ∧ (4 : Word) ≠ 0 ∧ (4#32).toNat ≤ ready.cfg.nmax ∧
      (65535#32).toNat ≤ ready.cfg.nmax ∧ ready.sig.adcSel1 ≠ ready.sig.adcSel2 ∧ accessesGranted 4 ready ∧
      xfersGranted ((4#32).toNat + 3) ready := by decide +kernel

theorem witness_OmeasureChecks :
    ready.cfg.nmax < (65536#32).toNat ∧ ((1 : Word) ≠ 0 ∧ (1#32).toNat ≤ ready.cfg.nmax ∧ 2 ≤ (2#8).toNat) ∧
    ((1#8).toNat < 2 ∧ 12 ≤ (12#8).toNat) ∧ fresh.lc ≠ .mapped ∧
    (∀ k ∈ [0, 3], k < 4 ∧ (grantOnly k ready).lc = .mapped ∧ accessesGranted k (grantOnly k ready) ∧
      ¬ accessesGranted (k + 1) (grantOnly k ready)) ∧
    (let s : State := { ready with spi := Spi.reset };
      s.lc = .mapped ∧ s.spi.cfg ≠ .configured ∧ accessesGranted 4 s) ∧
    ∀ k ∈ [0, 3],
      let s : State := { ready with env := { calm with xferOk := script (List.replicate k true ++ [false]) } }
      k < (1#32).toNat + 3 ∧ s.lc = .mapped ∧ s.spi.cfg = .configured ∧ accessesGranted 4 s ∧ xfersGranted k s ∧
        ¬ xfersGranted (k + 1) s := by
  decide +kernel

/-- The statistics engine with row 6's samples, and an entry of an earlier measurement after them. -/
def row6Stats : Stats := { Stats.reset with n := 4, buf := [10000, 30000, 30100, 29900, 7] }

theorem witness_FirstPassAndHomeTest_VoteAndRefilter_StatisticsBounds :
    [10000, 30000, 30100, 29900] = row6Stats.buf.take row6Stats.n ∧ ([10000, 30000, 30100, 29900] : List Code) ≠ [] ∧
      ([10000, 30000, 30100, 29900] : List Code).length = row6Stats.n ∧ 0 < row6Stats.n ∧
      row6Stats.n ≤ row6Stats.buf.length := by decide

theorem witness_GuardedDivision :
    let one : Stats := { Stats.reset with n := 1, buf := [65535] }
    sideOf Config.p0.threshCode one.measHigh (one.buf.take one.n) = [] ∧ one.buf.take one.n ≠ [] := by decide +kernel

theorem witness_BoundaryFrames :
    ((PlainTarget.sr, 6#8) ∈ [(PlainTarget.board, 0#8), (.encoders, 1#8), (.sensors, 2#8), (.drivebank, 4#8), (.hicurrent, 5#8),
      (.sr, 6#8)] ∧ (11 : AdcChan) ≠ 0) ∧
    (Config.p0.measChan.encoder[1]? = some (0, 1) ∧ Config.p0.valid = true) ∧
    AnsweredOk [.pconn 10] fresh [[0xB9]] (stepped { fresh with host := [.frame (encode (.pconn 10))] }) ∧
    (let t : State := { ready with host := [.frame (encode (.osetustep 3))] };
      step t = .next (stepped t) ∧ (stepped t).out = some [0x01000000#32 ||| ((3#8).zeroExtend 32 <<< 16)]) ∧
    (let t : State := { fresh with host := [.frame (encode .ogetustep)] };
      step t = .next (stepped t) ∧ (stepped t).out = some [0x02000000]) ∧
    step { stopped with host := [.frame (encode .gopen)] } = .fault .halted ∧
    (expand fresh.cfg .getUstep = .ok [.ogetustep] ∧ ∀ q n x, Pseudo.getUstep ≠ .measNamed q n x) ∧
    expand fresh.cfg (.measNamed (.encoder 1) 4 0) = .ok [.omeasure 0 1 4 0] :=
  ⟨by decide, by decide +kernel, ⟨_, [0xB9], [], rfl, by decide +kernel, rfl, rfl, rfl⟩, ⟨rfl, by decide +kernel⟩,
    ⟨rfl, by decide +kernel⟩, rfl, ⟨rfl, by simp⟩, by decide +kernel⟩

theorem witness_BoundaryNeverHalts :
    ((0 : Int) < 1 ∧ (6 : Int) < 7 ∧ (7 : Int) < 8 ∧ (11 : Int) < 12 ∧ Config.p0.measChan.encoder.length ≤ 2) ∧
    expand fresh.cfg (.usbQ 8) = .error .badIndex ∧
    expand fresh.cfg (.meas 2 11 1 0) = .ok [.omeasure 1 11 1 0] ∧ fresh.fault.halted = false ∧
      exec (.omeasure 1 11 1 0) fresh = .next (next (.omeasure 1 11 1 0) fresh) :=
  ⟨by decide +kernel, by decide +kernel, by decide +kernel, rfl, rfl⟩

end Sys2Proof.Tests
end

section
/-! PROOFS. The register file bit by bit: the bank demultiplexer, the mask generator and data-in (spec/10_state.md R25 to R27). -/

namespace Sys2Proof.Machine

/-- The mask as a number: its bit stands below 32, so the shift loses nothing (spec/10_state.md R27). -/
theorem maskOf_toNat (g : Line) : (maskOf g).toNat = 2 ^ bitOf g := by
  have hlt : 2 ^ bitOf g < 2 ^ 32 := Nat.pow_lt_pow_right (by decide) (bitOf_lt g)
  calc (maskOf g).toNat = 2 ^ bitOf g % 2 ^ 32 := by simp [maskOf, Nat.one_shiftLeft]
    _ = 2 ^ bitOf g := Nat.mod_eq_of_lt hlt

/-- Settles O11: the bank and the bit are the demultiplexer's own definition, the mask is `maskOf_toNat`, and data-in is
`lineLevel_eq` in each direction of the line. -/
theorem registerFileBits : Obligations.RegisterFileBits := by
  intro g
  refine ⟨rfl, rfl, maskOf_toNat g, fun s => ?_⟩
  have hlevel := lineLevel_eq g s
  by_cases hdir : lineIsInput g s = true
  · have hin : (s.oe.get (bankOf g)).getLsbD (bitOf g) ≠ false := ne_false_of_eq_true hdir
    rw [if_pos hdir] at hlevel
    rw [if_neg hin]
    exact hlevel
  · have hout : (s.oe.get (bankOf g)).getLsbD (bitOf g) = false := eq_false_of_ne_true hdir
    rw [if_neg hdir] at hlevel
    rw [if_pos hout]
    exact hlevel

end Sys2Proof.Machine
end

section
/-! PROOFS. The register addresses: every register has one, and the address decoder inverts it (spec/20_memory.md R72, R73, R78). -/

namespace Sys2Proof.Machine

/-- The eighteen are all the registers there are. -/
theorem mem_allRegs (k : BankIdx) (r : Reg) : (k, r) ∈ allRegs := by
  have hbank : k ∈ [0, 1, 2, 3, 4, 5] := by fin_cases k <;> decide
  refine List.mem_flatMap.2 ⟨k, hbank, ?_⟩
  cases r <;> simp

/-- What the decoder finds stands at the address asked for, whatever the parameters. -/
theorem eq_regAddr_of_regAt {c : Config} {addr : Word} {k : BankIdx} {r : Reg} (h : regAt c addr = some (k, r)) :
    addr = regAddr c k r := by
  have hfound := List.find?_some h
  exact (beq_iff_eq.1 hfound).symm

/-- The decoder finds some register at a register's address, whatever the parameters. -/
theorem regAt_regAddr_isSome (c : Config) (k : BankIdx) (r : Reg) : (regAt c (regAddr c k r)).isSome = true :=
  List.find?_isSome.2 ⟨(k, r), mem_allRegs k r, beq_self_eq_true _⟩

section ValidParameters

variable {c : Config} (hc : c.valid = true)

include hc

/-- The decoder finds each register at its own address: it finds one there, and no two registers share an address. -/
theorem regAt_regAddr (k : BankIdx) (r : Reg) : regAt c (regAddr c k r) = some (k, r) := by
  obtain ⟨⟨k', r'⟩, hfound⟩ := Option.isSome_iff_exists.1 (regAt_regAddr_isSome c k r)
  obtain ⟨rfl, rfl⟩ := regAddr_injective hc (eq_regAddr_of_regAt hfound)
  exact hfound

/-- Every register address is a word address: its base and its offset are multiples of 4, and adding them does not wrap. -/
theorem regAddr_aligned (k : BankIdx) (r : Reg) : (regAddr c k r).toNat % 4 = 0 := by
  have hbase := base_aligned hc k
  obtain ⟨hoff, -⟩ := offset_aligned hc r
  rw [regAddr_toNat hc]
  omega

end ValidParameters

/-- Settles O10: the decoder inverts `regAddr` (`regAt_regAddr`, `eq_regAddr_of_regAt`), and aligned windows hold the offsets
without wrap-around (`regAddr_toNat`, `regAddr_aligned`). -/
theorem registerAddresses : Obligations.RegisterAddresses := by
  intro c hc
  exact ⟨regAt_regAddr hc, fun _ _ _ => eq_regAddr_of_regAt, fun k r => ⟨regAddr_toNat hc k r, regAddr_aligned hc k r⟩⟩

end Sys2Proof.Machine
end

section
/-! PROOFS. What opening and mapping the register file, GCFGALL, GWRLVL and GRDLVL do when the platform grants their accesses, and
the inferences of spec/40_gpio_register_access.md from them. -/

namespace Sys2Proof.Machine

/-! ### How an operation ends -/

/-- The response of an operation that ends OK (spec/30_encoding.md R108). -/
theorem respond_ok (ws : List Word) (s : State) : respond (.ok ws) s = answered (0x00000000#32 :: ws) s := rfl

/-- The response of an operation its lifecycle state does not allow (spec/30_encoding.md R108). -/
theorem respond_badState (s : State) : respond (.rejected .badState) s = answered [0x01040000#32] s := rfl

/-- A refused initialisation step halts the block (spec/60_exceptions.md R301, R311). -/
theorem takeFault_fatalInit (i : InitStep) (s : State) : takeFault (.fatalInit i) s = afterHalt (.fatalInit i) s :=
  takeFault_halt rfl s

/-! ### GOPEN -/

/-- GOPEN outside CLOSED is rejected (spec/40_gpio_register_access.md R131). -/
theorem exec_gopen_rejected {s : State} (hl : s.lc ≠ .closed) : exec .gopen s = .next (answered [0x01040000#32] s) := by
  rw [exec, execGopen, if_pos hl, finish_rejected, respond_badState]

/-- GOPEN of a device that opens (spec/40_gpio_register_access.md R131). -/
theorem exec_gopen_granted {s : State} (hl : s.lc = .closed) (ho : openOk s = true) :
    exec .gopen s = .next (answered [0x00000000#32] { tookOpen (enter .run s) with lc := .opened }) := by
  have ho' : openOk (enter .run s) = true := ho
  rw [exec, execGopen, if_neg (not_not.2 hl), if_pos ho', finish_done, respond_ok]

/-- GOPEN of a device that does not open (spec/40_gpio_register_access.md R131). -/
theorem exec_gopen_refused {s : State} (hl : s.lc = .closed) (ho : openOk s = false) :
    exec .gopen s = .next (afterHalt (.fatalInit .openDevice) (tookOpen (enter .run s))) := by
  have ho' : ¬ openOk (enter .run s) = true := ne_true_of_eq_false ho
  rw [exec, execGopen, if_neg (not_not.2 hl), if_neg ho', finish_raised, takeFault_fatalInit]

/-- Settles O19: rejected outside CLOSED, opened when the platform opens the device, halted when it does not. -/
theorem gopen : Obligations.Gopen :=
  ⟨ofFields_eq .., fun _ => ⟨exec_gopen_rejected, exec_gopen_granted, fun hl ho => ⟨_, exec_gopen_refused hl ho, rfl⟩⟩⟩

/-! ### GMAP -/

/-- GMAP outside OPEN is rejected (spec/40_gpio_register_access.md R133). -/
theorem exec_gmap_rejected {s : State} (hl : s.lc ≠ .opened) : exec .gmap s = .next (answered [0x01040000#32] s) := by
  rw [exec, execGmap, if_pos hl, finish_rejected, respond_badState]

/-- GMAP with all six mappings granted (spec/40_gpio_register_access.md R133). -/
theorem exec_gmap_granted {s : State} (hl : s.lc = .opened) (hg : s.env.mapOk.grants Config.freeMapOk 6 = true) :
    exec .gmap s = .next (answered [0x00000000#32] { mapsDone 6 (enter .run s) with lc := .mapped }) := by
  have hmaps := mapBanks_granted [0, 1, 2, 3, 4, 5] (enter .run s) hg
  rw [exec, execGmap, if_neg (not_not.2 hl), hmaps, andThen_done, finish_done, respond_ok]
  rfl

/-- The banks in order, around one of them. -/
theorem banks_split (k : BankIdx) : ∃ before after : List BankIdx,
    ([0, 1, 2, 3, 4, 5] : List BankIdx) = before ++ k :: after ∧ before.length = k.val :=
  ⟨(List.finRange 6).take k.val, (List.finRange 6).drop (k.val + 1), by revert k; decide, by revert k; decide⟩

/-- GMAP when the mapping of bank `k` is the first refused (spec/40_gpio_register_access.md R133). -/
theorem exec_gmap_refused {s : State} {k : BankIdx} (hl : s.lc = .opened)
    (hg : s.env.mapOk.grants Config.freeMapOk k.val = true) (hk : (s.env.mapOk.drop k.val).head Config.freeMapOk = false) :
    exec .gmap s = .next (afterHalt (.fatalInit (.map k)) (mapsDone (k.val + 1) (enter .run s))) := by
  obtain ⟨before, after, hsplit, hlen⟩ := banks_split k
  rw [← hlen] at hg hk
  have hmaps := mapBanks_refused before after k (enter .run s) hg hk
  rw [exec, execGmap, if_neg (not_not.2 hl), hsplit, hmaps, andThen_raised, finish_raised, takeFault_fatalInit, hlen]

/-- Settles O20: rejected outside OPEN, mapped when all six mappings are granted, halted at the first that is not. -/
theorem gmap : Obligations.Gmap :=
  ⟨ofFields_eq .., fun _ => ⟨exec_gmap_rejected, exec_gmap_granted, fun _ hl hg hk => ⟨_, exec_gmap_refused hl hg hk, rfl⟩⟩⟩

/-! ### GCFGALL: the order of the lines, and a second time -/

/-- A policy applied twice is the policy applied once. -/
theorem policyBit_policyBit (p : DirPolicy) (b : Bool) : policyBit p (policyBit p b) = policyBit p b := by cases p <;> rfl

/-- GCFGALL accesses as many lines in one order as in another. -/
theorem touchedLines_length_of_perm (c : Config) {lines : List Line} (h : lines.Perm (List.finRange 192)) :
    (touchedLines c lines).length = (configuredLines c).length := (h.filter _).length_eq

/-- The direction bit of a line after a configuration that passed it. -/
theorem Configured.bit_of_mem {gs : List Line} {s t : State} (h : Configured gs s t) {g : Line} (hg : g ∈ gs) :
    lineBit t.oe g = policyBit (s.cfg.dirPolicy.get g) (lineBit s.oe g) := by
  rw [h.bit g, if_pos hg]

/-- A configuration writes no data-out register (spec/40_gpio_register_access.md R143). -/
theorem Configured.dout_eq {gs : List Line} {s t : State} (h : Configured gs s t) : t.dout = s.dout := by rw [h.eq]; rfl

theorem Configured.cfg_eq {gs : List Line} {s t : State} (h : Configured gs s t) : t.cfg = s.cfg := by rw [h.eq]; rfl

theorem Configured.lc_eq {gs : List Line} {s t : State} (h : Configured gs s t) : t.lc = s.lc := by rw [h.eq]; rfl

/-- The accesses a configuration drew: two for each line it accessed. -/
theorem Configured.accessOk_eq {gs : List Line} {s t : State} (h : Configured gs s t) :
    t.env.accessOk = s.env.accessOk.drop (2 * (touchedLines s.cfg gs).length) := by rw [h.eq]; rfl

/-- Two configurations of all the lines from one state, in any orders, leave the same direction registers. -/
theorem Configured.oe_unique {gs gs' : List Line} {s t u : State} (ht : Configured gs s t) (hu : Configured gs' s u)
    (hgs : ∀ g, g ∈ gs) (hgs' : ∀ g, g ∈ gs') : t.oe = u.oe :=
  ext_lineBit fun g => (ht.bit_of_mem (hgs g)).trans (hu.bit_of_mem (hgs' g)).symm

/-- The loop of GCFGALL with every access granted configures all its lines (spec/40_gpio_register_access.md R143). -/
theorem configLines_granted {gs : List Line} {s : State} (h : accessesGranted (2 * (touchedLines s.cfg gs).length) s) :
    ∃ t, configLines gs s = .done () t ∧ Configured gs s t := by
  rcases configLines_cases gs s with ⟨-, hdone⟩ | ⟨hrefused, -⟩
  · exact hdone
  · exact absurd h hrefused

/-- GCFGALL with every access granted (spec/40_gpio_register_access.md R143). -/
theorem exec_gcfgall_granted {s : State} (hm : s.lc = .mapped) (h : accessesGranted (2 * (configuredLines s.cfg).length) s) :
    ∃ t, exec .gcfgall s = .next (answered [0x00000000#32] t) ∧ Configured (List.finRange 192) s t := by
  obtain ⟨t, hrun, ht⟩ := configLines_granted (gs := List.finRange 192) h
  refine ⟨t, ?_, ht⟩
  rw [exec, execGcfgall, requireMapped_mapped hm, andThen_done, hrun, andThen_done, finish_done, respond_ok]

/-- Both orders configure every line from the same state (spec/40_gpio_register_access.md R144 (2)). -/
theorem configLines_perm {s : State} {lines : List Line} (hperm : lines.Perm (List.finRange 192))
    (h : accessesGranted (2 * (configuredLines s.cfg).length) s) : ∃ t u,
      configLines lines s = .done () t ∧ configLines (List.finRange 192) s = .done () u ∧ t.oe = u.oe ∧ t.dout = s.dout := by
  obtain ⟨t, hrunt, ht⟩ := configLines_granted (gs := lines) ((touchedLines_length_of_perm s.cfg hperm).symm ▸ h)
  obtain ⟨u, hrunu, hu⟩ := configLines_granted (gs := List.finRange 192) h
  have hall (g : Line) : g ∈ lines := hperm.mem_iff.2 (List.mem_finRange g)
  exact ⟨t, u, hrunt, hrunu, ht.oe_unique hu hall List.mem_finRange, ht.dout_eq⟩

/-- A configuration of all the lines after another changes no direction register (spec/40_gpio_register_access.md R144 (3)). -/
theorem Configured.oe_repeat {gs gs' : List Line} {s t t' u : State} (ht : Configured gs s t) (hu : Configured gs' t' u)
    (hcfg : t'.cfg = t.cfg) (hoe : t'.oe = t.oe) (hgs : ∀ g, g ∈ gs) (hgs' : ∀ g, g ∈ gs') : u.oe = t.oe := by
  apply ext_lineBit
  intro g
  calc lineBit u.oe g = policyBit (s.cfg.dirPolicy.get g) (lineBit t.oe g) := by
        rw [hu.bit_of_mem (hgs' g), hcfg, hoe, ht.cfg_eq]
    _ = lineBit t.oe g := by rw [ht.bit_of_mem (hgs g), policyBit_policyBit]

/-- Settles O27: the order does not matter because each line's bit is a function of its own policy and old bit, and a second
GCFGALL changes nothing because that function is idempotent. -/
theorem gcfgallOrderAndRepeat : Obligations.GcfgallOrderAndRepeat := by
  refine ⟨fun _ _ hperm h => configLines_perm hperm h, fun s t hm h hexec => ?_⟩
  have hsum : 4 * (configuredLines s.cfg).length = 2 * (configuredLines s.cfg).length + 2 * (configuredLines s.cfg).length := by
    omega
  obtain ⟨hfirst, hsecond⟩ := (script_grants_add _ _ _ _).1 (hsum ▸ h)
  obtain ⟨t', hrun, ht⟩ := exec_gcfgall_granted hm hfirst
  obtain rfl : answered [0x00000000#32] t' = t := Host.Outcome.next.inj (hrun.symm.trans hexec)
  have hgranted : accessesGranted (2 * (configuredLines t'.cfg).length) t' := by
    rw [accessesGranted, ht.cfg_eq, ht.accessOk_eq]
    exact hsecond
  obtain ⟨u, hrun', hu⟩ := exec_gcfgall_granted (s := answered [0x00000000#32] t') (ht.lc_eq.trans hm) hgranted
  have hoe : u.oe = t'.oe := ht.oe_repeat hu rfl rfl List.mem_finRange List.mem_finRange
  exact ⟨_, hrun', hoe, hu.dout_eq, rfl⟩

/-! ### GWRLVL and GRDLVL: read back, and writes of two lines -/

/-- What a granted GWRLVL leaves (spec/40_gpio_register_access.md R137). -/
def levelWritten (g : Line) (v : Bool) (s : State) : State := answered [0x00000000#32] (rmwDone .dout g v (enter .run s))

@[simp] theorem levelWritten_lc (g : Line) (v : Bool) (s : State) : (levelWritten g v s).lc = s.lc := rfl
@[simp] theorem levelWritten_oe (g : Line) (v : Bool) (s : State) : (levelWritten g v s).oe = s.oe := rfl
@[simp] theorem levelWritten_dout (g : Line) (v : Bool) (s : State) : (levelWritten g v s).dout = rmwFile s.dout g v := rfl
@[simp] theorem levelWritten_accessOk (g : Line) (v : Bool) (s : State) :
    (levelWritten g v s).env.accessOk = s.env.accessOk.drop 2 := rfl

/-- GWRLVL with both accesses granted (spec/40_gpio_register_access.md R137). -/
theorem exec_gwrlvl_granted {s : State} (hm : s.lc = .mapped) (h : accessesGranted 2 s) (g : Line) (v : Bool) :
    exec (.gwrlvl (g.val : Int) v) s = .next (levelWritten g v s) := by
  have hwrite := writeLevel_granted (s := enter .run s) hm h g v
  rw [exec, execGwrlvl, resolvePin_line, andThen_done, hwrite, andThen_done, finish_done, respond_ok]
  rfl

/-- GRDLVL with its access granted: the line's current level (spec/40_gpio_register_access.md R135). -/
theorem exec_grdlvl_granted {s : State} (hm : s.lc = .mapped) (h : accessOk s = true) (g : Line) :
    exec (.grdlvl (g.val : Int)) s = .next (answered [0x00000000#32, boolWord (lineLevel g s)] (readDone g (enter .run s))) := by
  have hread := readLevel_granted (s := enter .run s) hm h g
  rw [exec, execGrdlvl, resolvePin_line, andThen_done, hread, andThen_done, finish_done, respond_ok]
  rfl

/-- The level of an output line is its data-out bit (spec/10_state.md R25). -/
theorem lineLevel_of_output {g : Line} {s : State} (h : lineBit s.oe g = false) : lineLevel g s = lineBit s.dout g := by
  have hout : lineIsInput g s = false := h
  rw [lineLevel_eq, hout, if_neg Bool.false_ne_true]

/-- The level written to an output line is its level afterwards (spec/40_gpio_register_access.md R138). -/
theorem lineLevel_levelWritten {g : Line} {s : State} (h : lineBit s.oe g = false) (v : Bool) :
    lineLevel g (levelWritten g v s) = v := by
  rw [lineLevel_of_output (s := levelWritten g v s) h, levelWritten_dout, lineBit_rmwFile, if_pos rfl]

/-- A level written to an output line reads back (spec/40_gpio_register_access.md R138). -/
theorem write_then_read {s t : State} {g : Line} {v : Bool} (hm : s.lc = .mapped) (h : accessesGranted 3 s)
    (hout : lineBit s.oe g = false) (hexec : exec (.gwrlvl (g.val : Int) v) s = .next t) :
    ∃ u, exec (.grdlvl (g.val : Int)) t = .next u ∧ u.out = some [0#32, if v then 1 else 0] := by
  obtain ⟨hwrite, hread⟩ := (script_grants_add _ 2 1 _).1 h
  obtain ⟨hread, -⟩ := (script_grants_succ _ _ _).1 hread
  obtain rfl : levelWritten g v s = t := Host.Outcome.next.inj ((exec_gwrlvl_granted hm hwrite g v).symm.trans hexec)
  refine ⟨_, exec_grdlvl_granted (s := levelWritten g v s) hm hread g, ?_⟩
  rw [lineLevel_levelWritten hout]
  rfl

/-- Two writes of levels, one after the other, with all four accesses granted. -/
theorem write_then_write {s : State} (hm : s.lc = .mapped) (h : accessesGranted 4 s) (g g' : Line) (v v' : Bool) :
    exec (.gwrlvl (g.val : Int) v) s = .next (levelWritten g v s) ∧
    exec (.gwrlvl (g'.val : Int) v') (levelWritten g v s) = .next (levelWritten g' v' (levelWritten g v s)) := by
  obtain ⟨hfirst, hsecond⟩ := (script_grants_add _ 2 2 _).1 h
  exact ⟨exec_gwrlvl_granted hm hfirst g v, exec_gwrlvl_granted (s := levelWritten g v s) hm hsecond g' v'⟩

/-- Settles O28: an output line shows its data-out bit, which is the bit written, and read-modify-writes of two lines' bits
commute. -/
theorem writeThenRead : Obligations.WriteThenRead := by
  refine ⟨fun _ _ _ _ => write_then_read, fun s g h v w hne hm hgranted => ?_⟩
  obtain ⟨hg, hgh⟩ := write_then_write hm hgranted g h v w
  obtain ⟨hh, hhg⟩ := write_then_write hm hgranted h g w v
  exact ⟨_, _, _, _, hg, hgh, hh, hhg, rmwFile_comm hne s.dout v w, rfl⟩

end Sys2Proof.Machine
end

section
/-! PROOFS. The pin layout tables: the total lookups PCONN and PDEFDIR, and the checked accessors of the signal lines
(spec/41_pin_layout.md). -/

namespace Sys2Proof.Machine

/-! ### What a lookup leaves -/

/-- A lookup answers its value and changes no other state: it enters phase RUN and ends there (spec/41_pin_layout.md R160). -/
theorem finish_lookup (w : Word) (s : State) :
    finish (.done [w] (enter .run s)) = .next (answered [0x00000000#32, w] { s with trace := s.trace ++ [.phase .run] }) := rfl

/-! ### PCONN -/

/-- PCONN answers the connector table's entry, for every operand (spec/41_pin_layout.md R161). -/
theorem exec_pconn (pin : Int) (s : State) : exec (.pconn pin) s = .next (answered
    [0x00000000#32, lineWord (connectorPinToGpio s.cfg pin)] { s with trace := s.trace ++ [.phase .run] }) := by
  rw [exec, execPconn, finish_lookup]

theorem connectorPinToGpio_out (c : Config) {pin : Int} (h : pin < 1 ∨ 140 < pin) : connectorPinToGpio c pin = none := if_pos h

/-- In range the lookup is the parameter table's own (spec/10_state.md R30). -/
theorem connectorPinToGpio_in (c : Config) {p : Nat} (h : 1 ≤ p) (h' : p ≤ 140) : connectorPinToGpio c p = c.connLine p := by
  have hrange : ¬ ((p : Int) < 1 ∨ 140 < (p : Int)) := by omega
  rw [connectorPinToGpio, if_neg hrange, Int.toNat_natCast]

/-- Connector pins are counted from 1 and their entries from 0. -/
theorem connectorPinToGpio_succ (c : Config) (p : Fin 140) : connectorPinToGpio c (p.val + 1 : Nat) = c.conn2gpio.get p := by
  have hrange : 1 ≤ p.val + 1 ∧ p.val + 1 ≤ 140 := by omega
  rw [connectorPinToGpio_in c hrange.1 hrange.2, Config.connLine, dif_pos hrange]
  rfl

/-- Settles O29: outside 1..140 the table is not asked, inside it is, and the constraints of R7 give the entries of pins 10
and 36. -/
theorem pconn : Obligations.Pconn := by
  refine ⟨fun _ => ofFields_eq .., fun s pin hout => ?_, fun s p => ?_, fun s hvalid => ?_⟩
  · rw [exec_pconn, connectorPinToGpio_out s.cfg hout]; rfl
  · rw [exec_pconn, connectorPinToGpio_succ]
    cases s.cfg.conn2gpio.get p <;> rfl
  · obtain ⟨h10, h36⟩ := conn_given hvalid
    have hpin10 : connectorPinToGpio s.cfg 10 = some 185 :=
      (connectorPinToGpio_in s.cfg (p := 10) (by decide) (by decide)).trans h10
    have hpin36 : connectorPinToGpio s.cfg 36 = none :=
      (connectorPinToGpio_in s.cfg (p := 36) (by decide) (by decide)).trans h36
    refine ⟨_, _, exec_pconn 10 s, ?_, exec_pconn 36 s, ?_⟩
    · rw [hpin10]; rfl
    · rw [hpin36]; rfl

/-! ### PDEFDIR -/

/-- PDEFDIR answers the policy's code, for every operand (spec/41_pin_layout.md R163). -/
theorem exec_pdefdir (gpio : Int) (s : State) : exec (.pdefdir gpio) s = .next (answered
    [0x00000000#32, BitVec.ofInt 32 (policyCode (defaultDirection s.cfg gpio))]
    { s with trace := s.trace ++ [.phase .run] }) := by
  rw [exec, execPdefdir, finish_lookup]

theorem defaultDirection_line (c : Config) (g : Line) : defaultDirection c (g.val : Int) = c.dirPolicy.get g := by
  rw [defaultDirection, lineOfInt_line]

theorem defaultDirection_out (c : Config) {gpio : Int} (h : gpio < 0 ∨ 191 < gpio) : defaultDirection c gpio = .untouched := by
  have hout : gpio < 0 ∨ 192 ≤ gpio := by omega
  rw [defaultDirection, lineOfInt_none hout]

/-- Settles O30: a line has its own policy, a number that is no line is Untouched, and −1 extends to all ones. -/
theorem pdefdir : Obligations.Pdefdir := by
  refine ⟨fun _ => ofFields_eq .., fun s gpio hout => ?_, fun s g => ?_⟩
  · rw [exec_pdefdir, defaultDirection_out s.cfg hout]; rfl
  · rw [exec_pdefdir, defaultDirection_line]
    cases s.cfg.dirPolicy.get g <;> rfl

/-! ### PSTEP, PDIR, PEN and PUSBOFF -/

/-- The frame of an operation that has an operand in field `a` only (spec/30_encoding.md R101, format FA). -/
theorem ofFields_a_only (op a : Field8) : Frame.ofFields op a 0 0 0 =
    { w0 := (op.zeroExtend 32 <<< 24) ||| (a.zeroExtend 32 <<< 16), w1 := 0, w2 := 0 } := by
  have hb : (0 : Field8).zeroExtend 32 <<< 8 = 0#32 := by decide
  rw [ofFields_eq, hb, BitVec.or_zero]

/-- The body the four accessors share: the index checked, then its entry of the resolved signal table
(spec/41_pin_layout.md R164). -/
def signalLookup {n : Nat} (table : Vector Line n) (i : Field8) (s : State) : Res (List Word) :=
  (checkIndex i n s).andThen fun d s => .done [BitVec.ofNat 32 (table.get d).val] (enter .run s)

/-- The check of an index leaves the signal table as it was, so the entry is the one of the state before. -/
theorem checkIndex_then_signal {n : Nat} (table : SignalTable Line → Vector Line n) (i : Field8) (s : State) :
    (checkIndex i n s).andThen (fun d s => .done [lineWord (some ((table s.sig).get d))] (enter .run s)) =
      signalLookup (table s.sig) i s := by
  by_cases h : i.toNat < n
  · rw [signalLookup, checkIndex_in h]; rfl
  · rw [signalLookup, checkIndex_out (not_lt.1 h)]; rfl

/-- PSTEP (spec/41_pin_layout.md R165). -/
theorem exec_pstep (i : Field8) (s : State) : exec (.pstep i) s = finish (signalLookup s.sig.step i s) := by
  rw [exec, execPstep, checkIndex_then_signal (·.step)]

/-- PDIR (spec/41_pin_layout.md R166). -/
theorem exec_pdir (i : Field8) (s : State) : exec (.pdir i) s = finish (signalLookup s.sig.dir i s) := by
  rw [exec, execPdir, checkIndex_then_signal (·.dir)]

/-- PEN (spec/41_pin_layout.md R167). -/
theorem exec_pen (i : Field8) (s : State) : exec (.pen i) s = finish (signalLookup s.sig.en i s) := by
  rw [exec, execPen, checkIndex_then_signal (·.en)]

/-- PUSBOFF (spec/41_pin_layout.md R168). -/
theorem exec_pusboff (j : Field8) (s : State) : exec (.pusboff j) s = finish (signalLookup s.sig.usbOff j s) := by
  rw [exec, execPusboff, checkIndex_then_signal (·.usbOff)]

/-- PSTEP, PDIR and PEN, each with its table of the six drives' lines (spec/41_pin_layout.md R165, R166, R167). -/
def driveTables (s : State) : List ((Field8 → Instr) × Vector Line 6) :=
  [(Instr.pstep, s.sig.step), (Instr.pdir, s.sig.dir), (Instr.pen, s.sig.en)]

/-- The accessors of the drives' lines are the shared body, each on its own table. -/
theorem exec_driveSignal {op : Field8 → Instr} {table : Vector Line 6} {s : State} (h : (op, table) ∈ driveTables s)
    (i : Field8) : exec (op i) s = finish (signalLookup table i s) := by
  simp only [driveTables, List.mem_cons, List.not_mem_nil, or_false, Prod.mk.injEq] at h
  obtain ⟨rfl, rfl⟩ | ⟨rfl, rfl⟩ | ⟨rfl, rfl⟩ := h
  · exact exec_pstep i s
  · exact exec_pdir i s
  · exact exec_pen i s

theorem exists_driveTable {op : Field8 → Instr} (h : op ∈ [Instr.pstep, .pdir, .pen]) (s : State) :
    ∃ table, (op, table) ∈ driveTables s := by
  have hfst : op ∈ (driveTables s).map Prod.fst := h
  obtain ⟨⟨_, table⟩, hmem, rfl⟩ := List.mem_map.1 hfst
  exact ⟨table, hmem⟩

/-- An index in range is answered with its line, and nothing else changes (spec/41_pin_layout.md R164, R160). -/
theorem finish_signalLookup_in {n : Nat} (hn : n ≤ 256) (table : Vector Line n) (d : Fin n) (s : State) :
    finish (signalLookup table (BitVec.ofNat 8 d.val) s) = .next (answered
      [0x00000000#32, BitVec.ofNat 32 (table.get d).val] { s with trace := s.trace ++ [.phase .run] }) := by
  rw [signalLookup, checkIndex_fin hn, andThen_done, finish_lookup]

/-- An index out of range halts before phase RUN is entered (spec/41_pin_layout.md R164, spec/60_exceptions.md R311). -/
theorem finish_signalLookup_out {n : Nat} (table : Vector Line n) {i : Field8} (h : n ≤ i.toNat) (s : State) :
    finish (signalLookup table i s) = .next (afterHalt (.invalidAddress i.toNat) s) := by
  rw [signalLookup, checkIndex_out h, andThen_raised, finish_raised, takeFault_halt rfl]
  rfl

/-- Settles O31: all four are one body on four tables, so a checked index answers its line and any other halts. -/
theorem signalAccessors : Obligations.SignalAccessors := by
  refine ⟨fun i => ⟨ofFields_a_only .., ofFields_a_only .., ofFields_a_only .., ofFields_a_only ..⟩,
    fun s d op table hmem => ?_, fun s u => ?_, fun s i op hout hop => ?_, fun s j hout => ?_⟩
  · exact (exec_driveSignal hmem _).trans (finish_signalLookup_in (by decide) table d s)
  · exact (exec_pusboff _ s).trans (finish_signalLookup_in (by decide) s.sig.usbOff u s)
  · obtain ⟨table, hmem⟩ := exists_driveTable hop s
    exact ⟨_, (exec_driveSignal hmem i).trans (finish_signalLookup_out table hout s), rfl⟩
  · exact ⟨_, (exec_pusboff j s).trans (finish_signalLookup_out s.sig.usbOff hout s), rfl⟩

end Sys2Proof.Machine
end

section
/-! PROOFS. The SPI word transactor: what SXFER does in each of its three outcomes, what the set calls and the read-back calls of
SCFG leave and where they stop, and SCFG made of them (spec/42_spi_transactor.md). -/

namespace Sys2Proof.Machine

/-! ### SXFER -/

/-- A fault that does not halt ends the operation in `DEVFAULT` (spec/60_exceptions.md R310). -/
theorem finish_deviceFault {f : Raised} (h : f.halts = false) (s : State) :
    finish (.raised f s) = .next (afterDeviceFault f s) := by
  rw [finish_raised, takeFault_device h]
  rfl

/-- SXFER with its transfer granted (spec/42_spi_transactor.md R186). -/
theorem exec_sxfer_granted {s : State} (hc : s.spi.cfg = .configured) (hx : xferOk s = true) (w : Word) :
    exec (.sxfer w) s = .next (answered [0x00000000#32, rxWord s] (xferDone w (enter .run s))) := by
  have hxfer : spiXfer w (enter .run s) = .done (rxWord s) (xferDone w (enter .run s)) :=
    spiXfer_granted (s := enter .run s) hc hx w
  rw [exec, execSxfer, hxfer, andThen_done, finish_done, respond_ok]

/-- SXFER with its transfer refused (spec/42_spi_transactor.md R186). -/
theorem exec_sxfer_refused {s : State} (hc : s.spi.cfg = .configured) (hx : xferOk s = false) (w : Word) :
    exec (.sxfer w) s = .next (afterDeviceFault (.deviceIo .spi) (xferRefused w (enter .run s))) := by
  have hxfer := spiXfer_refused (s := enter .run s) hc hx w
  rw [exec, execSxfer, hxfer, andThen_raised, finish_deviceFault rfl]

/-- SXFER on a bus that is not configured (spec/42_spi_transactor.md R184). -/
theorem exec_sxfer_unconfigured {s : State} (hc : s.spi.cfg ≠ .configured) (w : Word) :
    exec (.sxfer w) s = .next (afterDeviceFault (.resourceAbsent .spi) (enter .run s)) := by
  have hxfer := spiXfer_unconfigured (s := enter .run s) hc w
  rw [exec, execSxfer, hxfer, andThen_raised, finish_deviceFault rfl]

/-- The events of a transfer follow the phase SXFER enters. -/
theorem xferDone_run (w : Word) (s : State) : xferDone w (enter .run s) =
    { transferred 1 (enter .run s) with
      spi := { s.spi with tx := w, rx := rxWord s }
      env := { (transferred 1 s).env with rx := s.env.rx.tail }
      trace := s.trace ++ [.phase .run, .xfer w (rxWord s)] } := by
  have htrace : s.trace ++ [Event.phase .run] ++ [.xfer w (rxWord s)] = s.trace ++ [.phase .run, .xfer w (rxWord s)] :=
    List.append_assoc ..
  rw [← htrace]
  rfl

theorem xferRefused_run (w : Word) (s : State) : xferRefused w (enter .run s) =
    { transferred 1 (enter .run s) with
      spi := { s.spi with tx := w }
      trace := s.trace ++ [.phase .run, .xferFailed w] } := by
  have htrace : s.trace ++ [Event.phase .run] ++ [.xferFailed w] = s.trace ++ [.phase .run, .xferFailed w] :=
    List.append_assoc ..
  rw [← htrace]
  rfl

/-- Settles O33: the three outcomes of the transfer, each after phase RUN was entered. -/
theorem sxfer : Obligations.Sxfer := by
  refine ⟨fun _ => ofFields_eq .., fun s w => ⟨fun hc hx => ?_, fun hc hx => ?_, fun hc => ?_⟩⟩
  · rw [exec_sxfer_granted hc hx, xferDone_run]; rfl
  · rw [exec_sxfer_refused hc hx, xferRefused_run]; rfl
  · rw [exec_sxfer_unconfigured hc]; rfl

/-! ### The loops of SCFG -/

/-- The calls for two lists of settings, one after the other. -/
theorem eachSetting_append (call : SpiSetting → State → Res Unit) (before after : List SpiSetting) (s : State) :
    eachSetting call (before ++ after) s = (eachSetting call before s).andThen fun _ t => eachSetting call after t := by
  induction before generalizing s with
  | nil => rfl
  | cons x before ih =>
    rw [List.cons_append, eachSetting, eachSetting]
    cases call x s with
    | done _ t => exact ih t
    | rejected r t => rfl
    | raised f t => rfl

/-- The first call that fails ends the calls (spec/42_spi_transactor.md R182). -/
theorem eachSetting_raised {call : SpiSetting → State → Res Unit} {xs : List SpiSetting} {j : Nat} {x : SpiSetting}
    {s t u : State} {f : Raised} (hj : xs[j]? = some x) (hbefore : eachSetting call (xs.take j) s = .done () t)
    (hx : call x t = .raised f u) : eachSetting call xs s = .raised f u := by
  obtain ⟨hlt, rfl⟩ := List.getElem?_eq_some_iff.1 hj
  rw [← List.take_append_drop j xs, List.drop_eq_getElem_cons hlt, eachSetting_append, hbefore, andThen_done, eachSetting,
    hx, andThen_raised]

/-- What granted set calls for some settings leave. -/
def settingsSet (xs : List SpiSetting) (s : State) : State :=
  { s with
    env := { s.env with ioctlOk := s.env.ioctlOk.drop xs.length }
    trace := s.trace ++ xs.map fun x => .spiSet x (requested s.cfg x) }

/-- What granted read-back calls for some settings leave when each value is the requested one. -/
def settingsRead (xs : List SpiSetting) (s : State) : State :=
  { s with
    env := { s.env with ioctlOk := s.env.ioctlOk.drop xs.length, readback := s.env.readback.drop xs.length }
    trace := s.trace ++ xs.map fun x => .spiGet x (requested s.cfg x) }

theorem settingsSet_nil (s : State) : settingsSet [] s = s := by simp [settingsSet]
theorem settingsRead_nil (s : State) : settingsRead [] s = s := by simp [settingsRead]

theorem settingsSet_cons (x : SpiSetting) (xs : List SpiSetting) (s : State) :
    settingsSet xs (logEvent (.spiSet x (requested s.cfg x)) (tookIoctl s)) = settingsSet (x :: xs) s := by
  simp [settingsSet, logEvent, tookIoctl]

theorem settingsRead_cons (x : SpiSetting) (xs : List SpiSetting) (s : State) :
    settingsRead xs (logEvent (.spiGet x (requested s.cfg x)) (tookReadback (tookIoctl s))) = settingsRead (x :: xs) s := by
  simp [settingsRead, logEvent, tookIoctl, tookReadback]

/-- The set calls when every one is granted (spec/42_spi_transactor.md R182). -/
theorem setSettings_granted {xs : List SpiSetting} {s : State}
    (h : s.env.ioctlOk.grants Config.freeIoctlOk xs.length = true) :
    eachSetting setSetting xs s = .done () (settingsSet xs s) := by
  induction xs generalizing s with
  | nil => rw [settingsSet_nil]; rfl
  | cons x xs ih =>
    obtain ⟨hx, hxs⟩ := (script_grants_succ _ _ _).1 h
    rw [eachSetting, setSetting_granted hx, andThen_done, ih hxs, settingsSet_cons]

/-- The read-back calls when every one is granted and gives the requested value (spec/42_spi_transactor.md R182). -/
theorem getSettings_granted {xs : List SpiSetting} {s : State}
    (h : s.env.ioctlOk.grants Config.freeIoctlOk xs.length = true)
    (hr : s.env.readback.take Config.freeReadback xs.length = xs.map (requested s.cfg)) :
    eachSetting getSetting xs s = .done () (settingsRead xs s) := by
  induction xs generalizing s with
  | nil => rw [settingsRead_nil]; rfl
  | cons x xs ih =>
    obtain ⟨hx, hxs⟩ := (script_grants_succ _ _ _).1 h
    obtain ⟨hrx, hrxs⟩ := List.cons.inj hr
    rw [eachSetting, getSetting_granted hx hrx, andThen_done, ih hxs hrxs, settingsRead_cons]

/-! ### SCFG -/

/-- The three settings in the order of SCFG's calls (spec/42_spi_transactor.md R182). -/
def busSettings : List SpiSetting := [.mode, .bits, .speed]

/-- The values SCFG requests, in that order. -/
theorem requested_busSettings (c : Config) : busSettings.map (requested c) = [c.spiMode.val, 16, c.spiSpeedHz] := rfl

/-- As many settings stand before setting number `j`. -/
theorem length_before {j : Nat} {x : SpiSetting} (h : busSettings[j]? = some x) : (busSettings.take j).length = j := by
  obtain ⟨hlt, -⟩ := List.getElem?_eq_some_iff.1 h
  exact List.length_take_of_le hlt.le

/-- SCFG with its device opened, before the first set call. -/
def busOpened (s : State) : State := tookSpiOpen (enter .run s)

/-- SCFG with its three set calls granted, before the first read-back call. -/
def busSet (s : State) : State := settingsSet busSettings (busOpened s)

@[simp] theorem busSet_cfg (s : State) : (busSet s).cfg = s.cfg := rfl
@[simp] theorem busSet_readback (s : State) : (busSet s).env.readback = s.env.readback := rfl
@[simp] theorem busSet_ioctlOk (s : State) : (busSet s).env.ioctlOk = s.env.ioctlOk.drop 3 := rfl

/-- A configured bus: the three settings stand as requested, the holding words as they were (spec/42_spi_transactor.md R182). -/
def busConfigured (s : State) : State :=
  { s with
    spi :=
      { s.spi with
        cfg := .configured, mode := requested s.cfg .mode, bits := requested s.cfg .bits
        speed := requested s.cfg .speed } }

/-- SCFG on a configured bus (spec/42_spi_transactor.md R182). -/
theorem exec_scfg_rejected {s : State} (hc : s.spi.cfg = .configured) :
    exec .scfg s = .next (answered [0x01040000#32] s) := by
  rw [exec, execScfg, if_pos hc, finish_rejected, respond_badState]

/-- SCFG when the device does not open (spec/42_spi_transactor.md R182). -/
theorem exec_scfg_refused {s : State} (hc : s.spi.cfg ≠ .configured) (ho : spiOpenOk s = false) :
    exec .scfg s = .next (afterHalt (.fatalInit .spiOpen) (busOpened s)) := by
  have ho' : ¬ spiOpenOk (enter .run s) = true := ne_true_of_eq_false ho
  rw [exec, execScfg, if_neg hc, if_neg ho', finish_raised, takeFault_fatalInit]
  rfl

/-- A fault of a configuration call halts the block (spec/60_exceptions.md R301, R311). -/
theorem finish_fatalConfig (c : ConfigStep) (x : SpiSetting) (s : State) :
    finish (.raised (.fatalConfig c x) s) = .next (afterHalt (.fatalConfig c x) s) := by
  rw [finish_raised, takeFault_halt rfl]
  rfl

section Opened

variable {s : State} (hc : s.spi.cfg ≠ .configured) (ho : spiOpenOk s = true)

include hc ho

/-- SCFG once the device is open: its set calls, its read-back calls, and the settings taken over. -/
theorem exec_scfg_opened : exec .scfg s = finish ((eachSetting setSetting busSettings (busOpened s)).andThen fun _ t =>
    (eachSetting getSetting busSettings t).andThen fun _ t => .done [] (busConfigured t)) := by
  have ho' : spiOpenOk (enter .run s) = true := ho
  rw [exec, execScfg, if_neg hc, if_pos ho']
  rfl

/-- SCFG when set call number `j` is the first to fail (spec/42_spi_transactor.md R182). -/
theorem exec_scfg_setFails {j : Nat} {x : SpiSetting} (hx : busSettings[j]? = some x)
    (hg : s.env.ioctlOk.grants Config.freeIoctlOk j = true) (hf : (s.env.ioctlOk.drop j).head Config.freeIoctlOk = false) :
    exec .scfg s = .next (afterHalt (.fatalConfig .set x) (tookIoctl (settingsSet (busSettings.take j) (busOpened s)))) := by
  have hlen := length_before hx
  have hbefore := setSettings_granted (xs := busSettings.take j) (s := busOpened s) (by rw [hlen]; exact hg)
  have hfail : ioctlOk (settingsSet (busSettings.take j) (busOpened s)) = false := by
    rw [ioctlOk, settingsSet, hlen]; exact hf
  rw [exec_scfg_opened hc ho, eachSetting_raised hx hbefore (setSetting_refused hfail), andThen_raised, finish_fatalConfig]

/-- SCFG once its three set calls were granted. -/
theorem exec_scfg_set (hg : s.env.ioctlOk.grants Config.freeIoctlOk 3 = true) :
    exec .scfg s = finish ((eachSetting getSetting busSettings (busSet s)).andThen fun _ t => .done [] (busConfigured t)) := by
  have hset : eachSetting setSetting busSettings (busOpened s) = .done () (busSet s) := setSettings_granted hg
  rw [exec_scfg_opened hc ho, hset, andThen_done]

/-- SCFG with all six calls granted and the requested values read back (spec/42_spi_transactor.md R182). -/
theorem exec_scfg_granted (hg : s.env.ioctlOk.grants Config.freeIoctlOk 6 = true)
    (hr : s.env.readback.take Config.freeReadback 3 = [s.cfg.spiMode.val, 16, s.cfg.spiSpeedHz]) :
    exec .scfg s = .next (answered [0x00000000#32] (busConfigured (settingsRead busSettings (busSet s)))) := by
  obtain ⟨hset, hget⟩ := (script_grants_add _ 3 3 _).1 hg
  have hread : eachSetting getSetting busSettings (busSet s) = .done () (settingsRead busSettings (busSet s)) :=
    getSettings_granted hget hr
  rw [exec_scfg_set hc ho hset, hread, andThen_done, finish_done, respond_ok]

end Opened

/-- SCFG as it comes to read-back call number `j`: the three set calls and `j` read-back calls granted. -/
def busRead (j : Nat) (s : State) : State := settingsRead (busSettings.take j) (busSet s)

section ReadBack

variable {s : State} {j : Nat} {x : SpiSetting} (hx : busSettings[j]? = some x)

include hx

theorem ioctlOk_busRead : ioctlOk (busRead j s) = (s.env.ioctlOk.drop (3 + j)).head Config.freeIoctlOk := by
  rw [ioctlOk, busRead, settingsRead, length_before hx, busSet_ioctlOk, script_drop_drop]

theorem readback_busRead : readback (busRead j s) = (s.env.readback.drop j).head Config.freeReadback := by
  rw [readback, busRead, settingsRead, length_before hx, busSet_readback]

/-- The read-back calls before number `j`, all granted and all as requested. -/
theorem getSettings_before (hg : (s.env.ioctlOk.drop 3).grants Config.freeIoctlOk j = true)
    (hr : s.env.readback.take Config.freeReadback j = [s.cfg.spiMode.val, 16, s.cfg.spiSpeedHz].take j) :
    eachSetting getSetting (busSettings.take j) (busSet s) = .done () (busRead j s) := by
  have hlen := length_before hx
  apply getSettings_granted
  · rw [hlen]; exact hg
  · rw [hlen, List.map_take, busSet_cfg, requested_busSettings]; exact hr

variable (hc : s.spi.cfg ≠ .configured) (ho : spiOpenOk s = true)
  (hg : s.env.ioctlOk.grants Config.freeIoctlOk (3 + j) = true)
  (hr : s.env.readback.take Config.freeReadback j = [s.cfg.spiMode.val, 16, s.cfg.spiSpeedHz].take j)

include hc ho hg hr

/-- SCFG when it comes to a read-back call that faults: the fault ends it. -/
theorem exec_scfg_readRaised {c : ConfigStep} {u : State}
    (hcall : getSetting x (busRead j s) = .raised (.fatalConfig c x) u) :
    exec .scfg s = .next (afterHalt (.fatalConfig c x) u) := by
  obtain ⟨hset, hget⟩ := (script_grants_add _ 3 j _).1 hg
  rw [exec_scfg_set hc ho hset, eachSetting_raised hx (getSettings_before hx hget hr) hcall, andThen_raised,
    finish_fatalConfig]

/-- SCFG when read-back call number `j` is the first to fail (spec/42_spi_transactor.md R182). -/
theorem exec_scfg_getFails (hf : (s.env.ioctlOk.drop (3 + j)).head Config.freeIoctlOk = false) :
    exec .scfg s = .next (afterHalt (.fatalConfig .get x) (tookReadback (tookIoctl (busRead j s)))) :=
  exec_scfg_readRaised hx hc ho hg hr (getSetting_refused ((ioctlOk_busRead hx).trans hf))

/-- SCFG when the value of read-back call number `j` is the first to differ (spec/42_spi_transactor.md R182). -/
theorem exec_scfg_differs (hcall : (s.env.ioctlOk.drop (3 + j)).head Config.freeIoctlOk = true)
    (hd : some ((s.env.readback.drop j).head Config.freeReadback) ≠ [s.cfg.spiMode.val, 16, s.cfg.spiSpeedHz][j]?) :
    exec .scfg s = .next (afterHalt (.fatalConfig .mismatch x)
      (logEvent (.spiGet x (readback (busRead j s))) (tookReadback (tookIoctl (busRead j s))))) := by
  have hdiffers : readback (busRead j s) ≠ requested s.cfg x := by
    rw [← requested_busSettings, List.getElem?_map, hx] at hd
    exact fun heq => hd (congrArg some ((readback_busRead hx).symm.trans heq))
  exact exec_scfg_readRaised hx hc ho hg hr (getSetting_differs ((ioctlOk_busRead hx).trans hcall) hdiffers)

end ReadBack

/-- `t` differs from `s` in `seq`, the answers still to be drawn and the history only: all that the calls of SCFG change. -/
def OnlyCalled (s t : State) : Prop := t = { s with seq := t.seq, env := t.env, trace := t.trace }

theorem OnlyCalled.trans {s t u : State} (h : OnlyCalled s t) (k : OnlyCalled t u) : OnlyCalled s u :=
  Eq.trans k (congrArg (fun v : State => { v with seq := u.seq, env := u.env, trace := u.trace }) h)

theorem busOpened_onlyCalled (s : State) : OnlyCalled s (busOpened s) := rfl
theorem settingsSet_onlyCalled (xs : List SpiSetting) (s : State) : OnlyCalled s (settingsSet xs s) := rfl
theorem settingsRead_onlyCalled (xs : List SpiSetting) (s : State) : OnlyCalled s (settingsRead xs s) := rfl
theorem tookIoctl_onlyCalled (s : State) : OnlyCalled s (tookIoctl s) := rfl
theorem tookReadback_onlyCalled (s : State) : OnlyCalled s (tookReadback s) := rfl
theorem logEvent_onlyCalled (e : Event) (s : State) : OnlyCalled s (logEvent e s) := rfl

theorem setCall_onlyCalled (xs : List SpiSetting) (s : State) : OnlyCalled s (tookIoctl (settingsSet xs (busOpened s))) :=
  ((busOpened_onlyCalled s).trans (settingsSet_onlyCalled _ _)).trans (tookIoctl_onlyCalled _)

theorem readCall_onlyCalled (j : Nat) (s : State) : OnlyCalled s (tookReadback (tookIoctl (busRead j s))) :=
  ((((busOpened_onlyCalled s).trans (settingsSet_onlyCalled _ _)).trans (settingsRead_onlyCalled _ _)).trans
    (tookIoctl_onlyCalled _)).trans (tookReadback_onlyCalled _)

/-- A halt of SCFG, from the state its calls led to. -/
theorem scfg_halt {s t : State} {f : Raised} (hexec : exec .scfg s = .next (afterHalt f t)) (ht : OnlyCalled s t) :
    ∃ u, exec .scfg s = .next u ∧ u = afterHalt f { s with seq := u.seq, env := u.env, trace := u.trace } :=
  ⟨_, hexec, congrArg (afterHalt f) ht⟩

/-- Settles O32: the device is opened or not, then each of the six calls in order is the first that fails or none is. -/
theorem scfg : Obligations.Scfg := by
  refine ⟨ofFields_eq .., fun s => ⟨exec_scfg_rejected, fun hc ho => ?_, fun j x hx hc ho hg hf => ?_,
    fun j x hx hc ho hg hr hf => ?_, fun j x hx hc ho hg hr hd => ?_, fun hc ho hg hr => ?_⟩⟩
  · exact scfg_halt (exec_scfg_refused hc ho) (busOpened_onlyCalled s)
  · exact scfg_halt (exec_scfg_setFails hc ho hx hg hf) (setCall_onlyCalled _ s)
  · exact scfg_halt (exec_scfg_getFails hx hc ho hg hr hf) (readCall_onlyCalled j s)
  · have hsum : 4 + j = 3 + j + 1 := by omega
    obtain ⟨hg, hcall⟩ := (script_grants_add _ (3 + j) 1 _).1 (hsum ▸ hg)
    obtain ⟨hcall, -⟩ := (script_grants_succ _ _ _).1 hcall
    exact scfg_halt (exec_scfg_differs hx hc ho hg hr hcall hd) ((readCall_onlyCalled j s).trans (logEvent_onlyCalled _ _))
  · rw [exec_scfg_granted hc ho hg hr]
    simp [busConfigured, settingsRead, busSet, settingsSet, busOpened, busSettings, requested, answered]

end Sys2Proof.Machine
end

section
/-! PROOFS. Every step keeps the invariant: while an operation runs the block is in operation (`Operating`), which each shared
operation and so each instruction keeps, and an operation that ends from there ends in the invariant. -/

namespace Sys2Proof.Machine

/-! ### A block in operation -/

/-- The invariant of an idle block at normal priority speaks only of the parameters, `SIG`, `FAULT`, `LC` and the bus settings. -/
theorem Inv.congr {s t : State} (h : Inv s) (hcfg : t.cfg = s.cfg) (hsig : t.sig = s.sig) (hfault : t.fault = s.fault)
    (hlc : t.lc = s.lc)
    (hspi : t.spi.cfg = s.spi.cfg ∧ t.spi.mode = s.spi.mode ∧ t.spi.bits = s.spi.bits ∧ t.spi.speed = s.spi.speed)
    (hseq : t.seq = .idle) (hprio : t.prio = .normal) : Inv t where
  cfgValid := by rw [hcfg, h.cfgValid]
  sigResolved := by rw [hsig, hcfg, h.sigResolved]
  seqIdle := fun _ => hseq
  prioNormal := hprio
  haltedIff := by rw [hfault, hlc, h.haltedIff]
  haltCause := by rw [hfault]; exact h.haltCause
  faultInfo := by rw [hfault, h.faultInfo]
  spiSettings := by
    obtain ⟨hconf, hmode, hbits, hspeed⟩ := hspi
    rw [hconf, hmode, hbits, hspeed, hcfg]
    exact h.spiSettings

/-- The state as it would be if its operation ended here. -/
def idled (s : State) : State := { s with seq := .idle, prio := .normal }

/-- What holds of the block throughout an operation: it is not halted, and but for `seq` and `PRIO` it meets the invariant. -/
structure Operating (s : State) : Prop where
  idled : Inv (idled s)
  notHalted : s.fault.halted = false

theorem Inv.operating {s : State} (h : Inv s) (hf : s.fault.halted = false) : Operating s :=
  ⟨h.congr rfl rfl rfl rfl ⟨rfl, rfl, rfl, rfl⟩ rfl rfl, hf⟩

/-- The special registers of which the invariant says nothing. -/
def unspoken : List Special := [.holding, .ustep, .stats, .deadline, .prio]

/-- A fault that halts the block has one of the causes 1, 2 and 3 (spec/60_exceptions.md R301). -/
theorem cause_code_of_halts {f : Raised} (h : f.halts = true) : 1 ≤ f.cause.code ∧ f.cause.code ≤ 3 := by
  cases f with
  | fatalInit _ => exact (by decide : 1 ≤ Cause.fatalInit.code ∧ Cause.fatalInit.code ≤ 3)
  | fatalConfig _ _ => exact (by decide : 1 ≤ Cause.fatalConfig.code ∧ Cause.fatalConfig.code ≤ 3)
  | invalidAddress _ => exact (by decide : 1 ≤ Cause.invalidAddress.code ∧ Cause.invalidAddress.code ≤ 3)
  | deviceIo _ => cases h
  | resourceAbsent _ => cases h

namespace Operating

variable {s t : State}

/-- What leaves every special register but the unspoken ones alone keeps the block in operation, whatever bits it writes. -/
theorem of_keeps {bits : List (Latch × Line)} (h : Operating s) (k : Keeps bits unspoken s t) : Operating t :=
  ⟨h.idled.congr k.cfg k.sig k.fault (k.lc (by decide)) (k.settings (by decide)) rfl rfl, by rw [k.fault, h.notHalted]⟩

/-- A new lifecycle state other than HALTED. -/
theorem set_lc (h : Operating s) {l : Lifecycle} (hl : l ≠ .halted) : Operating { s with lc := l } :=
  ⟨{ h.idled with
      haltedIff := ⟨fun hh => absurd (h.notHalted.symm.trans hh) Bool.false_ne_true, fun e => absurd e hl⟩ }, h.notHalted⟩

/-- The bus configured as SCFG requests it (spec/42_spi_transactor.md R182). -/
theorem busConfigured (h : Operating s) : Operating (busConfigured s) :=
  ⟨{ h.idled with spiSettings := fun _ => ⟨rfl, rfl, rfl⟩ }, h.notHalted⟩

/-- A fault recorded with the info that belongs to it (spec/60_exceptions.md R310). -/
theorem record_fault (h : Operating s) (f : Raised) :
    Operating { s with fault := { s.fault with cause := f.cause, info := some f } } :=
  ⟨{ h.idled with
      haltCause := fun hh => absurd (h.notHalted.symm.trans hh) Bool.false_ne_true
      faultInfo := rfl }, h.notHalted⟩

/-- An operation that is answered ends in the invariant (spec/40_gpio_register_access.md R130). -/
theorem respond_inv (h : Operating s) (r : Response) : Inv (respond r s) :=
  h.idled.congr rfl rfl rfl rfl ⟨rfl, rfl, rfl, rfl⟩ rfl rfl

/-- An operation that faults ends in the invariant, halted or not (spec/60_exceptions.md R310, R311). -/
theorem takeFault_inv (h : Operating s) (f : Raised) : Inv (takeFault f s) := by
  cases hf : f.halts
  · rw [takeFault_device hf]
    exact (h.record_fault f).respond_inv _
  · rw [takeFault_halt hf]
    exact
      { cfgValid := h.idled.cfgValid
        sigResolved := h.idled.sigResolved
        seqIdle := fun hh => absurd hh.symm Bool.false_ne_true
        prioNormal := rfl
        haltedIff := ⟨fun _ => rfl, fun _ => rfl⟩
        haltCause := fun _ => cause_code_of_halts hf
        faultInfo := rfl
        spiSettings := h.idled.spiSettings }

end Operating

/-! ### Parts of an operation -/

/-- Whatever way a part ends, it leaves the block in operation. -/
def Res.Operating {α : Type} : Res α → Prop
  | .done _ t | .rejected _ t | .raised _ t => Machine.Operating t

/-- If this is a next state, it meets the invariant. -/
def NextInv (o : Host.Outcome State Fault Refusal) : Prop := ∀ t, o = .next t → Inv t

section Parts

variable {α β : Type} {s : State}

/-- Two parts in sequence. -/
theorem operating_andThen {r : Res α} {k : α → State → Res β} (h : r.Operating)
    (hk : ∀ a t, Operating t → (k a t).Operating) : (r.andThen k).Operating := by
  cases r with
  | done a t => exact hk a t h
  | rejected r t => exact h
  | raised f t => exact h

/-- A part that leaves every special register but the unspoken ones alone. -/
theorem Operating.res_of_keeps {bits : List (Latch × Line)} {r : Res α} (h : Operating s) (k : r.Keeps bits unspoken s) :
    r.Operating := by
  cases r <;> exact h.of_keeps k

/-- An operation whose parts leave the block in operation ends in the invariant (spec/00_scope.md R11). -/
theorem nextInv_finish {r : Res (List Word)} (h : r.Operating) : NextInv (finish r) := by
  rintro t ⟨rfl⟩
  cases r with
  | done ws t => exact h.respond_inv (.ok ws)
  | rejected r t => exact h.respond_inv (.rejected r)
  | raised f t => exact h.takeFault_inv f

end Parts

/-! ### The shared operations -/

namespace Operating

variable {s : State} (h : Operating s)

include h

theorem after_enter (p : Phase) : Operating (enter p s) := h.of_keeps (bits := []) (enter_keeps p)
theorem after_elevate : Operating (elevate s) := h.of_keeps (bits := []) (elevate_keeps (by decide))
theorem after_busyWait (ticks : Nat) : Operating (busyWait ticks s) := h.of_keeps (bits := []) (busyWait_keeps ticks (by decide))
theorem after_updateStats (f : Stats → Stats) : Operating (updateStats f s) :=
  h.of_keeps (bits := []) (updateStats_keeps f (by decide))
theorem after_set_ustep (m : Option UStepMode) : Operating { s with ustep := m } :=
  h.of_keeps (bits := []) (.set_ustep m (by decide))

/-- The end of the operations that elevate their priority: its release and the yield (spec/45_motion.md R248). -/
theorem after_released (p : Phase) : Operating (yieldCpu (release (enter p s))) :=
  h.of_keeps (bits := []) (((enter_keeps p).trans release_keeps).trans yieldCpu_keeps)

theorem after_requireMapped : (requireMapped s).Operating := h.res_of_keeps (bits := []) requireMapped_keeps
theorem after_resolvePin (pin : Int) : (resolvePin pin s).Operating := h.res_of_keeps (bits := []) (resolvePin_keeps pin)
theorem after_checkIndex (idx : Field8) (n : Nat) : (checkIndex idx n s).Operating :=
  h.res_of_keeps (bits := []) (checkIndex_keeps idx n)
theorem after_powerLine (target idx : Field8) : (powerLine target idx s).Operating :=
  h.res_of_keeps (bits := []) (powerLine_keeps target idx)
theorem after_memRead (k : BankIdx) (r : Reg) : (memRead k r s).Operating := h.res_of_keeps (bits := []) (memRead_keeps k r)
theorem after_rmwBit (l : Latch) (g : Line) (v : Bool) : (rmwBit (bankOf g) l (maskOf g) v s).Operating :=
  h.res_of_keeps (rmwBit_keeps l g v List.mem_cons_self : Res.Keeps [(l, g)] _ _ _)
theorem after_readLevel (g : Line) : (readLevel g s).Operating := h.res_of_keeps (bits := []) (readLevel_keeps g)
theorem after_writeLevel (g : Line) (v : Bool) : (writeLevel g v s).Operating :=
  operating_andThen h.after_requireMapped fun _ _ ht => ht.after_rmwBit .dout g v
theorem after_spiXfer (w : Word) : (spiXfer w s).Operating := h.res_of_keeps (bits := []) (spiXfer_keeps w (by decide))

theorem after_mapBanks (ks : List BankIdx) : (mapBanks ks s).Operating := h.res_of_keeps (bits := []) (mapBanks_keeps ks)
theorem after_configLines (gs : List Line) : (configLines gs s).Operating :=
  h.res_of_keeps (configLines_keeps gs fun _ hg _ => List.mem_map_of_mem hg : Res.Keeps (gs.map (Latch.oe, ·)) _ _ _)
theorem after_setSettings (xs : List SpiSetting) : (eachSetting setSetting xs s).Operating :=
  h.res_of_keeps (bits := []) (eachSetting_keeps _ (fun x _ => setSetting_keeps x) xs)
theorem after_getSettings (xs : List SpiSetting) : (eachSetting getSetting xs s).Operating :=
  h.res_of_keeps (bits := []) (eachSetting_keeps _ (fun x _ => getSetting_keeps x) xs)
theorem after_captureSamples (chan : AdcChan) (settleCount : Word) (m i : Nat) :
    (captureSamples chan settleCount m i s).Operating :=
  h.res_of_keeps (bits := []) (captureSamples_keeps chan settleCount m i (by decide) (by decide))

/-! ### The instructions whose bodies branch or run through several phases -/

/-- GOPEN moves LC to OPEN when the device opens and faults when it does not (spec/40_gpio_register_access.md R131). -/
theorem nextInv_gopen : NextInv (exec .gopen s) := by
  refine nextInv_finish ?_
  have hopen : Operating (tookOpen (enter .run s)) := h.of_keeps (bits := []) (.of_quiet rfl)
  split
  · exact h
  · dsimp only
    split
    · exact hopen.set_lc (by decide)
    · exact hopen

theorem nextInv_gmap : NextInv (exec .gmap s) := by
  refine nextInv_finish ?_
  split
  · exact h
  · exact operating_andThen ((h.after_enter .run).after_mapBanks _) fun _ _ ht => ht.set_lc (by decide)

theorem nextInv_grelease : NextInv (exec .grelease s) := by
  refine nextInv_finish ?_
  split
  · exact h
  · exact (h.after_enter .run).set_lc (by decide)

/-- The lookups that check an index first (spec/41_pin_layout.md R164). -/
theorem nextInv_checked (idx : Field8) (n : Nat) {look : Fin n → State → Word} :
    NextInv (finish ((checkIndex idx n s).andThen fun d t => .done [look d t] (enter .run t))) :=
  nextInv_finish (operating_andThen (h.after_checkIndex idx n) fun _ _ hd => hd.after_enter .run)

/-- SCFG configures the bus only with the three requested settings (spec/42_spi_transactor.md R182). -/
theorem nextInv_scfg : NextInv (exec .scfg s) := by
  refine nextInv_finish ?_
  have hopen : Operating (busOpened s) := h.of_keeps (bits := []) (.of_quiet rfl)
  split
  · exact h
  · dsimp only
    split
    · refine operating_andThen (hopen.after_setSettings _) fun _ _ hset => ?_
      exact operating_andThen (hset.after_getSettings _) fun _ _ hget => hget.busConfigured
    · exact hopen

theorem nextInv_araw2v (raw fsUv : Word) : NextInv (exec (.araw2v raw fsUv) s) := by
  refine nextInv_finish ?_
  split
  · exact h
  · exact h.after_enter .run

theorem nextInv_osetustep (mode : Field8) : NextInv (exec (.osetustep mode) s) := by
  refine nextInv_finish ?_
  split
  · exact h
  · refine operating_andThen (((h.after_enter .run).after_set_ustep none).after_writeLevel _ _) fun _ _ h1 => ?_
    exact operating_andThen (h1.after_writeLevel _ _) fun _ _ h2 => h2.after_set_ustep _

theorem after_writeDirection (d : Drive) (dir : StepDir) : (writeDirection d dir s).Operating := by
  unfold writeDirection
  split
  · exact h
  · exact h.after_writeLevel _ _

/-- The seven steps of the stepping protocol (spec/45_motion.md R245). -/
theorem after_stepPulse (d : Drive) (dir : StepDir) (freq : Nat) : (stepPulse d dir freq s).Operating := by
  have hstart := (h.after_enter .stPrio).after_elevate
  refine operating_andThen ((hstart.after_enter .stDir).after_writeDirection d dir) fun _ _ hdir => ?_
  refine operating_andThen ((hdir.after_enter .stHigh).after_writeLevel _ _) fun _ _ hhigh => ?_
  have hwait := (hhigh.after_enter .stWait1).after_busyWait
  refine operating_andThen (((hwait _).after_enter .stLow).after_writeLevel _ _) fun _ _ hlow => ?_
  exact ((hlow.after_enter .stWait2).after_busyWait _).after_released .stYield

theorem nextInv_ostep1 (drive dir : Field8) (freq : Word) : NextInv (exec (.ostep1 drive dir freq) s) := by
  refine nextInv_finish ?_
  split
  · exact h
  · split
    · exact h
    · exact operating_andThen (h.after_checkIndex _ _) fun d _ hd => hd.after_stepPulse d _ _

theorem nextInv_ophreset : NextInv (exec .ophreset s) := by
  refine nextInv_finish (operating_andThen ((h.after_enter .prLow).after_writeLevel _ _) fun _ _ hlow => ?_)
  have hwait := (hlow.after_enter .prWait).after_busyWait
  exact operating_andThen (((hwait _).after_enter .prHigh).after_writeLevel _ _) fun _ _ hhigh => hhigh

theorem after_checkMeasureArgs (dev chan : Field8) (n : Word) : (checkMeasureArgs dev chan n s).Operating := by
  unfold checkMeasureArgs
  split
  · exact h
  · refine operating_andThen (h.after_checkIndex _ _) fun _ _ hdev => ?_
    exact operating_andThen (hdev.after_checkIndex _ _) fun _ _ hchan => hchan

theorem after_selectDevice (dev : AdcDev) : (selectDevice dev s).Operating :=
  operating_andThen (h.after_writeLevel _ _) fun _ _ hsel => hsel.after_writeLevel _ _

/-- The devices' part of a measurement (spec/46_measurement.md R271, R273). -/
theorem after_acquire (dev : AdcDev) (chan : AdcChan) (n : Nat) (settleCount : Word) :
    (acquire dev chan n settleCount s).Operating := by
  have hbegun : Operating (beginMeasure dev chan n s) := h.of_keeps (bits := []) (beginMeasure_keeps dev chan n (by decide))
  have hstart := (hbegun.after_enter .msPrio).after_elevate
  refine operating_andThen ((hstart.after_enter .msMux).after_selectDevice dev) fun _ _ hmux => ?_
  refine operating_andThen ((hmux.after_enter .msInit).after_spiXfer _) fun _ _ hinit => ?_
  refine operating_andThen (hinit.after_spiXfer _) fun _ _ hconfig => ?_
  refine operating_andThen ((hconfig.after_enter .msBurn).after_spiXfer _) fun _ _ hburn => ?_
  exact (hburn.of_keeps (bits := []) (settle_keeps _)).after_captureSamples _ _ _ _

/-- The computing part of a measurement (spec/46_measurement.md R271, R274 to R279). -/
theorem after_analyse : (analyse s).Operating := by
  have hfirst := (h.after_enter .msPass1).after_updateStats firstPass
  have hhome := (hfirst.after_enter .msHome).after_updateStats (homeTest s.cfg)
  have hsecond := hhome.of_keeps (bits := []) (secondPass_keeps (by decide))
  exact (hsecond.after_enter .msOut).after_released .msYield

theorem nextInv_omeasure (dev chan : Field8) (n settleCount : Word) : NextInv (exec (.omeasure dev chan n settleCount) s) := by
  refine nextInv_finish (operating_andThen (h.after_checkMeasureArgs _ _ _) fun dc _ hargs => ?_)
  exact operating_andThen (hargs.after_acquire _ _ _ _) fun _ _ hacq => hacq.after_analyse

end Operating

/-! ### Every instruction, every frame, every step -/

/-- Whatever instruction a block in operation runs, it ends in the invariant. -/
theorem Operating.nextInv_exec {s : State} (h : Operating s) (i : Instr) : NextInv (exec i s) := by
  have hrun := h.after_enter .run
  cases i with
  | gopen => exact h.nextInv_gopen
  | gmap => exact h.nextInv_gmap
  | grdlvl pin =>
    refine nextInv_finish (operating_andThen (h.after_resolvePin pin) fun g _ hpin => ?_)
    exact operating_andThen ((hpin.after_enter .run).after_readLevel g) fun _ _ hread => hread
  | gwrlvl pin level =>
    refine nextInv_finish (operating_andThen (h.after_resolvePin pin) fun g _ hpin => ?_)
    exact operating_andThen ((hpin.after_enter .run).after_writeLevel g level) fun _ _ hwrite => hwrite
  | ggetdir pin =>
    refine nextInv_finish (operating_andThen (h.after_resolvePin pin) fun g _ hpin => ?_)
    refine operating_andThen (hpin.after_enter .run).after_requireMapped fun _ _ hmapped => ?_
    exact operating_andThen (hmapped.after_memRead _ _) fun _ _ hread => hread
  | gsetdir pin dir =>
    refine nextInv_finish (operating_andThen (h.after_resolvePin pin) fun g _ hpin => ?_)
    refine operating_andThen (hpin.after_enter .run).after_requireMapped fun _ _ hmapped => ?_
    exact operating_andThen (hmapped.after_rmwBit .oe g dir) fun _ _ hwrite => hwrite
  | gcfgall =>
    refine nextInv_finish (operating_andThen h.after_requireMapped fun _ _ hmapped => ?_)
    exact operating_andThen (hmapped.after_configLines _) fun _ _ hlines => hlines
  | grelease => exact h.nextInv_grelease
  | pconn pin => exact nextInv_finish hrun
  | pdefdir gpio => exact nextInv_finish hrun
  | pstep d => exact h.nextInv_checked d 6
  | pdir d => exact h.nextInv_checked d 6
  | pen d => exact h.nextInv_checked d 6
  | pusboff j => exact h.nextInv_checked j 7
  | scfg => exact h.nextInv_scfg
  | sxfer word => exact nextInv_finish (operating_andThen (hrun.after_spiXfer word) fun _ _ hxfer => hxfer)
  | aencinit => exact nextInv_finish hrun
  | aenccfg => exact nextInv_finish hrun
  | aencsel chan => exact h.nextInv_checked chan 12
  | aencfifo => exact nextInv_finish hrun
  | aencpd => exact nextInv_finish hrun
  | adecode word => exact nextInv_finish hrun
  | araw2v raw fsUv => exact h.nextInv_araw2v raw fsUv
  | oena target idx =>
    refine nextInv_finish (operating_andThen (h.after_powerLine target idx) fun g _ hline => ?_)
    exact operating_andThen ((hline.after_enter .run).after_writeLevel g false) fun _ _ hwrite => hwrite
  | odis target idx =>
    refine nextInv_finish (operating_andThen (h.after_powerLine target idx) fun g _ hline => ?_)
    exact operating_andThen ((hline.after_enter .run).after_writeLevel g true) fun _ _ hwrite => hwrite
  | oisena target idx =>
    refine nextInv_finish (operating_andThen (h.after_powerLine target idx) fun g _ hline => ?_)
    exact operating_andThen ((hline.after_enter .run).after_readLevel g) fun _ _ hread => hread
  | osetustep mode => exact h.nextInv_osetustep mode
  | ogetustep =>
    refine nextInv_finish (operating_andThen (hrun.after_readLevel _) fun _ _ hms1 => ?_)
    exact operating_andThen (hms1.after_readLevel _) fun _ _ hms2 => hms2.after_set_ustep _
  | ostep1 drive dir freq => exact h.nextInv_ostep1 drive dir freq
  | ophreset => exact h.nextInv_ophreset
  | omeasure dev chan n settleCount => exact h.nextInv_omeasure dev chan n settleCount

/-- An accepted frame, legal or not, ends in the invariant (spec/30_encoding.md R106). -/
theorem Operating.nextInv_runFrame {s : State} (h : Operating s) (f : Frame) : NextInv (runFrame f s) := by
  unfold runFrame
  split
  · rintro t ⟨rfl⟩
    exact h.respond_inv _
  · exact h.nextInv_exec _

/-- The next states of a step: after a reset, of a free block that waits, and of a free block that takes a frame
(spec/70_reset_and_hazards.md R340, R341, spec/40_gpio_register_access.md R130). -/
theorem step_next_cases {s t : State} (h : step s = .next t) :
    (∃ rest, s.host = .reset :: rest ∧ t = resetBlock (elapse { s with host := rest })) ∨
    (s.fault.halted = false ∧ s.seq = .idle ∧ s.host = [] ∧ t = elapse (dropResponse s)) ∨
    (s.fault.halted = false ∧ s.seq = .idle ∧ ∃ f rest, s.host = .frame f :: rest ∧
      runFrame f (actorTurn (elapse (dropResponse { s with host := rest }))) = .next t) := by
  unfold step at h
  split at h
  next rest hhost => exact .inl ⟨rest, hhost, (Host.Outcome.next.inj h).symm⟩
  next hhost =>
    split_ifs at h with hhalted hidle
    exact .inr (.inl ⟨eq_false_of_ne_true hhalted, hidle, hhost, (Host.Outcome.next.inj h).symm⟩)
  next f rest hhost =>
    split_ifs at h with hhalted hidle
    exact .inr (.inr ⟨eq_false_of_ne_true hhalted, hidle, f, rest, hhost, h⟩)

/-- A reset restores the invariant of any board with valid parameters (spec/10_state.md R57). -/
theorem resetBlock_inv {s : State} (h : s.cfg.valid = true) : Inv (resetBlock s) where
  cfgValid := h
  sigResolved := rfl
  seqIdle := fun _ => rfl
  prioNormal := rfl
  haltedIff := ⟨fun hh => absurd hh Bool.false_ne_true, fun hl => nomatch hl⟩
  haltCause := fun hh => absurd hh Bool.false_ne_true
  faultInfo := rfl
  spiSettings := fun hc => nomatch hc

/-- Settles O8: a reset restores the invariant, waiting touches nothing it speaks of, and a frame runs in a block in
operation, which every instruction keeps so until it is answered or faults. -/
theorem stepKeepsInv : Obligations.StepKeepsInv := by
  intro s t hinv hstep
  obtain ⟨rest, -, rfl⟩ | ⟨-, hidle, -, rfl⟩ | ⟨hfree, hidle, f, rest, -, hrun⟩ := step_next_cases hstep
  · exact resetBlock_inv hinv.cfgValid
  · exact hinv.congr rfl rfl rfl rfl ⟨rfl, rfl, rfl, rfl⟩ hidle hinv.prioNormal
  · have htaken : Inv (actorTurn (elapse (dropResponse { s with host := rest }))) :=
      hinv.congr rfl rfl rfl rfl ⟨rfl, rfl, rfl, rfl⟩ hidle hinv.prioNormal
    exact (htaken.operating hfree).nextInv_runFrame f t hrun

end Sys2Proof.Machine
end

section
/-! PROOFS. The ADC codec: the command words of the converter, answered from the parameters, and the sample decoded from a word
(spec/43_adc_codec.md R200 to R206). -/

namespace Sys2Proof.Machine

/-! ### AENCINIT, AENCCFG, AENCFIFO, AENCPD and AENCSEL -/

/-- The command words without an operand, each with the parameter it answers (spec/43_adc_codec.md R201, R202, R204, R205). -/
def commandWords (c : Config) : List (Instr × Word) :=
  [(.aencinit, c.cmdInit), (.aenccfg, c.cmdConfig), (.aencfifo, c.cmdReadFifo), (.aencpd, c.cmdPowerDown)]

/-- Each of the four is a lookup of its parameter (spec/43_adc_codec.md R200). -/
theorem exec_commandWord {i : Instr} {w : Word} {s : State} (h : (i, w) ∈ commandWords s.cfg) :
    exec i s = .next (answered [0x00000000#32, w] { s with trace := s.trace ++ [.phase .run] }) := by
  simp only [commandWords, List.mem_cons, List.not_mem_nil, or_false, Prod.mk.injEq] at h
  obtain ⟨rfl, rfl⟩ | ⟨rfl, rfl⟩ | ⟨rfl, rfl⟩ | ⟨rfl, rfl⟩ := h
  · rw [exec, execAencinit, finish_lookup]
  · rw [exec, execAenccfg, finish_lookup]
  · rw [exec, execAencfifo, finish_lookup]
  · rw [exec, execAencpd, finish_lookup]

/-- AENCSEL of one of the twelve channels (spec/43_adc_codec.md R203). -/
theorem exec_aencsel_in (c : AdcChan) (s : State) : exec (.aencsel (BitVec.ofNat 8 c.val)) s = .next (answered
    [0x00000000#32, s.cfg.cmdSelect.get c] { s with trace := s.trace ++ [.phase .run] }) := by
  rw [exec, execAencsel, checkIndex_fin (by decide), andThen_done, finish_lookup]

/-- AENCSEL of any other channel halts before phase RUN is entered (spec/43_adc_codec.md R203, spec/60_exceptions.md R311). -/
theorem exec_aencsel_out {c : Field8} (h : 12 ≤ c.toNat) (s : State) :
    exec (.aencsel c) s = .next (afterHalt (.invalidAddress c.toNat) s) := by
  rw [exec, execAencsel, checkIndex_out h, andThen_raised, finish_raised, takeFault_halt rfl]
  rfl

/-- Settles O34: the four words without an operand and the checked channel's word are lookups in the parameters, and a channel
out of range halts. -/
theorem codecCommandWords : Obligations.CodecCommandWords :=
  ⟨⟨ofFields_eq .., ofFields_eq .., ofFields_eq .., ofFields_eq .., fun _ => ofFields_a_only ..⟩,
    fun _ _ _ hmem => exec_commandWord hmem, fun s c => exec_aencsel_in c s, fun s _ hout => ⟨_, exec_aencsel_out hout s, rfl⟩⟩

/-! ### ADECODE -/

/-- The decoded sample as a value word is the word shifted down and masked (spec/43_adc_codec.md R206). -/
theorem decodeSample_zeroExtend (c : Config) (w : Word) :
    (decodeSample c w).zeroExtend 32 = (w >>> c.sampleLsb.val) &&& 0x0000FFFF#32 := by
  apply BitVec.eq_of_toNat_eq
  have hlt : w.toNat >>> c.sampleLsb.val % 2 ^ 16 < 2 ^ 32 := (Nat.mod_lt _ (by decide)).trans (by decide)
  calc ((decodeSample c w).zeroExtend 32).toNat = w.toNat >>> c.sampleLsb.val % 2 ^ 16 % 2 ^ 32 := by
        rw [decodeSample, BitVec.zeroExtend, BitVec.toNat_setWidth, BitVec.extractLsb'_toNat]
    _ = w.toNat >>> c.sampleLsb.val % 2 ^ 16 := Nat.mod_eq_of_lt hlt
    _ = w.toNat >>> c.sampleLsb.val &&& (2 ^ 16 - 1) := (Nat.and_two_pow_sub_one_eq_mod _ 16).symm
    _ = ((w >>> c.sampleLsb.val) &&& 0x0000FFFF#32).toNat := by rw [BitVec.toNat_and, BitVec.toNat_ushiftRight]; rfl

/-- ADECODE, for every word (spec/43_adc_codec.md R206). -/
theorem exec_adecode (w : Word) (s : State) : exec (.adecode w) s = .next (answered
    [0x00000000#32, (w >>> s.cfg.sampleLsb.val) &&& 0x0000FFFF#32] { s with trace := s.trace ++ [.phase .run] }) := by
  rw [exec, execAdecode, finish_lookup, decodeSample_zeroExtend]

/-- Settles O35: ADECODE is a lookup of the sample, whose bits `decodeSample_zeroExtend` names. -/
theorem adecode : Obligations.Adecode := ⟨fun _ => ofFields_eq .., fun s w => exec_adecode w s⟩

end Sys2Proof.Machine
end

section
/-! PROOFS. Power and enable: which pairs of a target and an index name a line and how the others end, and what OENA, ODIS and
OISENA do on a line (spec/44_power_enable.md). -/

namespace Sys2Proof.Machine

/-! ### PowerLine -/

/-- A target code above 7 is refused (spec/44_power_enable.md R221). -/
theorem powerLine_unknown {target : Field8} (h : 7 < target.toNat) (idx : Field8) (s : State) :
    powerLine target idx s = .rejected .badArg s := by
  obtain ⟨n, hcode⟩ := Nat.exists_eq_add_of_le' (Nat.succ_le_of_lt h)
  have hnone : targetOf target = none := by
    rw [targetOf, hcode]
    rfl
  rw [powerLine, hnone]

/-- The codes of the targets with no index (spec/44_power_enable.md R220). -/
def plainTargets : List Field8 := [0#8, 1#8, 2#8, 4#8, 5#8, 6#8]

/-- A target with no index refuses every index but 0 (spec/44_power_enable.md R221). -/
theorem powerLine_plain {target : Field8} (h : target ∈ plainTargets) {idx : Field8} (hidx : idx ≠ 0) (s : State) :
    powerLine target idx s = .rejected .badArg s := by
  have hplain (line : Line) : plainTarget line idx s = .rejected .badArg s := if_neg hidx
  simp only [plainTargets, List.mem_cons, List.not_mem_nil, or_false] at h
  obtain rfl | rfl | rfl | rfl | rfl | rfl := h <;> exact hplain _

/-- A USB port out of range faults (spec/44_power_enable.md R221). -/
theorem powerLine_usb_out {idx : Field8} (h : 7 ≤ idx.toNat) (s : State) :
    powerLine 3 idx s = .raised (.invalidAddress idx.toNat) s := by
  change (checkIndex idx 7 s).andThen (fun j t => .done (t.sig.usbOff.get j) t) = _
  rw [checkIndex_out h, andThen_raised]

/-- A drive out of range faults (spec/44_power_enable.md R221). -/
theorem powerLine_drive_out {idx : Field8} (h : 6 ≤ idx.toNat) (s : State) :
    powerLine 7 idx s = .raised (.invalidAddress idx.toNat) s := by
  change (checkIndex idx 6 s).andThen (fun i t => .done (t.sig.en.get i) t) = _
  rw [checkIndex_out h, andThen_raised]

/-- The four kinds of target code (spec/44_power_enable.md R220). -/
theorem target_cases (target : Field8) : 7 < target.toNat ∨ target ∈ plainTargets ∨ target = 3 ∨ target = 7 := by
  simp only [plainTargets, List.mem_cons, List.not_mem_nil, or_false]
  bv_omega

/-- A pair that names no line is refused or faults (spec/44_power_enable.md R221). -/
theorem powerLine_none {target idx : Field8} {s : State} (h : powerLineOf s.sig target idx = none) :
    powerLine target idx s = .rejected .badArg s ∨ powerLine target idx s = .raised (.invalidAddress idx.toNat) s := by
  obtain hunknown | hplain | rfl | rfl := target_cases target
  · exact .inl (powerLine_unknown hunknown idx s)
  · have hidx : idx ≠ 0 := by
      rintro rfl
      simp only [plainTargets, List.mem_cons, List.not_mem_nil, or_false] at hplain
      obtain rfl | rfl | rfl | rfl | rfl | rfl := hplain <;> cases h
    exact .inl (powerLine_plain hplain hidx s)
  · have hout : 7 ≤ idx.toNat := not_lt.1 fun hlt => Option.some_ne_none _ ((dif_pos hlt).symm.trans h)
    exact .inr (powerLine_usb_out hout s)
  · have hout : 6 ≤ idx.toNat := not_lt.1 fun hlt => Option.some_ne_none _ ((dif_pos hlt).symm.trans h)
    exact .inr (powerLine_drive_out hout s)

/-! ### The three operations, made of PowerLine and one access -/

/-- The operation that brings a target's line to a level: OENA to 0, ODIS to 1 (spec/44_power_enable.md R223, R224). -/
def powerWrites : List ((Field8 → Field8 → Instr) × Bool) := [(Instr.oena, false), (Instr.odis, true)]

/-- OENA and ODIS share one body. -/
theorem exec_powerWrite {op : Field8 → Field8 → Instr} {v : Bool} (h : (op, v) ∈ powerWrites) (target idx : Field8)
    (s : State) : exec (op target idx) s = finish ((powerLine target idx s).andThen fun g t =>
      (writeLevel g v (enter .run t)).andThen fun _ u => .done [] u) := by
  simp only [powerWrites, List.mem_cons, List.not_mem_nil, or_false, Prod.mk.injEq] at h
  obtain ⟨rfl, rfl⟩ | ⟨rfl, rfl⟩ := h <;> rfl

/-- Each of the three operations resolves its line first, and its access needs the register file mapped
(spec/44_power_enable.md R221, spec/40_gpio_register_access.md R134). -/
theorem exists_powerAccess {op : Field8 → Field8 → Instr} (h : op ∈ [Instr.oena, .odis, .oisena]) :
    ∃ access : Line → State → Res (List Word),
      (∀ target idx s, exec (op target idx) s = finish ((powerLine target idx s).andThen access)) ∧
      ∀ g s, s.lc ≠ .mapped → access g s = .raised (.resourceAbsent .gpio) (enter .run s) := by
  have hunmapped (s : State) (hm : s.lc ≠ .mapped) :
      requireMapped (enter .run s) = .raised (.resourceAbsent .gpio) (enter .run s) := requireMapped_unmapped hm
  simp only [List.mem_cons, List.not_mem_nil, or_false] at h
  obtain rfl | rfl | rfl := h
  all_goals refine ⟨_, fun _ _ _ => rfl, fun g s hm => ?_⟩
  · rw [writeLevel, hunmapped s hm, andThen_raised, andThen_raised]
  · rw [writeLevel, hunmapped s hm, andThen_raised, andThen_raised]
  · rw [readLevel, hunmapped s hm, andThen_raised, andThen_raised]

/-- The response of an operation whose argument is refused (spec/30_encoding.md R108). -/
theorem respond_badArg (s : State) : respond (.rejected .badArg) s = answered [0x01030000#32] s := rfl

/-- Settles O38: each of the three operations ends as `powerLine` ends, and on a line its access faults unless the register file
is mapped. -/
theorem powerTargets : Obligations.PowerTargets := by
  intro s target idx op hop
  obtain ⟨access, hexec, hunmapped⟩ := exists_powerAccess hop
  have hrejected (h : powerLine target idx s = .rejected .badArg s) :
      exec (op target idx) s = .next (answered [0x01030000#32] s) := by
    rw [hexec, h, andThen_rejected, finish_rejected, respond_badArg]
  have hhalt (h : powerLine target idx s = .raised (.invalidAddress idx.toNat) s) :
      ∃ t, exec (op target idx) s = .next t ∧ t = afterHalt (.invalidAddress idx.toNat) { s with seq := t.seq } := by
    refine ⟨afterHalt (.invalidAddress idx.toNat) s, ?_, rfl⟩
    rw [hexec, h, andThen_raised, finish_raised, takeFault_halt rfl]
    rfl
  refine ⟨fun h => hrejected (powerLine_unknown h idx s), fun h hidx => hrejected (powerLine_plain h hidx s), ?_, ?_, ?_⟩
  · rintro rfl hout
    exact hhalt (powerLine_usb_out hout s)
  · rintro rfl hout
    exact hhalt (powerLine_drive_out hout s)
  · rintro ⟨g, hline⟩ hm
    rw [hexec, powerLine_line hline, andThen_done, hunmapped g s hm, finish_deviceFault rfl]
    rfl

/-! ### OENA and ODIS -/

section OnLine

variable {s : State} {target idx : Field8} {g : Line} (hline : powerLineOf s.sig target idx = some g) (hm : s.lc = .mapped)

include hline hm

/-- OENA or ODIS with both accesses granted is a GWRLVL of the target's line (spec/44_power_enable.md R223, R224). -/
theorem exec_powerWrite_granted {op : Field8 → Field8 → Instr} {v : Bool} (hop : (op, v) ∈ powerWrites)
    (h : accessesGranted 2 s) : exec (op target idx) s = .next (levelWritten g v s) := by
  have hwrite := writeLevel_granted (s := enter .run s) hm h g v
  rw [exec_powerWrite hop, powerLine_line hline, andThen_done, hwrite, andThen_done, finish_done, respond_ok]
  rfl

/-- OENA or ODIS when its access number `k` is the first refused (spec/44_power_enable.md R223, R224). -/
theorem exec_powerWrite_refused {op : Field8 → Field8 → Instr} {v : Bool} (hop : (op, v) ∈ powerWrites) {k : Nat}
    (hk : k < 2) (h : accessesGranted k s) (hn : ¬ accessesGranted (k + 1) s) :
    exec (op target idx) s = .next (afterDeviceFault (.deviceIo (.register (regAddr s.cfg (bankOf g) .dout)))
      (rmwRefused .dout g k (enter .run s))) := by
  have hwrite := writeLevel_refused (s := enter .run s) hm hk h hn g v
  rw [exec_powerWrite hop, powerLine_line hline, andThen_done, hwrite, andThen_raised, finish_deviceFault rfl]
  rfl

/-- OISENA with its access granted: the inverse of the line's current level (spec/44_power_enable.md R225). -/
theorem exec_oisena_granted (h : accessOk s = true) : exec (.oisena target idx) s = .next (answered
    [0x00000000#32, boolWord (!lineLevel g s)] (readDone g (enter .run s))) := by
  have hread := readLevel_granted (s := enter .run s) hm h g
  rw [exec, execOisena, powerLine_line hline, andThen_done, hread, andThen_done, finish_done, respond_ok]
  rfl

/-- OISENA with its access refused (spec/44_power_enable.md R225). -/
theorem exec_oisena_refused (h : accessOk s = false) : exec (.oisena target idx) s = .next (afterDeviceFault
    (.deviceIo (.register (regAddr s.cfg (bankOf g) .din)))
    (logEvent (.accessFailed (regAddr s.cfg (bankOf g) .din)) (tookAccess (enter .run s)))) := by
  have hread := readLevel_refused (s := enter .run s) hm h g
  rw [exec, execOisena, powerLine_line hline, andThen_done, hread, andThen_raised, finish_deviceFault rfl]
  rfl

end OnLine

/-- What an operation records follows the phase it entered. -/
theorem trace_run (s : State) (es : List Event) : (enter .run s).trace ++ es = s.trace ++ .phase .run :: es :=
  List.append_assoc ..

/-- The events of a refused read-modify-write follow the phase the operation enters: the read is recorded when it was the write
that was refused. -/
theorem rmwRefused_run {k : Nat} (hk : k < 2) (g : Line) (s : State) : rmwRefused .dout g k (enter .run s) =
    { accessed (k + 1) (enter .run s) with
      trace := s.trace ++ ([.phase .run] ++ [.read (regAddr s.cfg (bankOf g) .dout) (s.dout.get (bankOf g))].take k
        ++ [.accessFailed (regAddr s.cfg (bankOf g) .dout)]) } := by
  obtain rfl | rfl : k = 0 ∨ k = 1 := by omega
  · rw [rmwRefused, trace_run]
    rfl
  · rw [rmwRefused, trace_run]
    rfl

/-- The written bank of the file holds the word written. -/
theorem rmwFile_get (r : Vector Word 6) (g : Line) (v : Bool) : (rmwFile r g v).get (bankOf g) = rmwWord r g v := by
  rw [rmwFile, get_set_bank, if_pos rfl]

/-- A granted write of a level, with the word written read off the file it leaves. -/
theorem levelWritten_eq (g : Line) (v : Bool) (s : State) : levelWritten g v s = answered [0x00000000#32]
    { accessed 2 s with
      dout := (levelWritten g v s).dout
      trace := s.trace ++
        [.phase .run, .read (regAddr s.cfg (bankOf g) .dout) (s.dout.get (bankOf g)),
          .write (regAddr s.cfg (bankOf g) .dout) ((levelWritten g v s).dout.get (bankOf g))] } := by
  rw [levelWritten_dout, rmwFile_get, ← trace_run]
  rfl

/-- Settles O39: on a line both operations are a write of its level, refused at one of its two accesses or granted. -/
theorem enableAndDisable : Obligations.EnableAndDisable := by
  refine ⟨fun _ _ => ⟨ofFields_eq .., ofFields_eq ..⟩, fun s target idx g op v hop hline hm => ⟨fun k hk h hn => ?_, fun h => ?_⟩⟩
  · rw [exec_powerWrite_refused hline hm hop hk h hn, rmwRefused_run hk]
    rfl
  · exact ⟨_, exec_powerWrite_granted hline hm hop h, fun x => lineBit_rmwFile s.dout g x v, levelWritten_eq g v s⟩

/-! ### OISENA -/

/-- Settles O40: a granted read answers the inverse of the level seen, a refused one samples nothing. -/
theorem oisena : Obligations.Oisena := by
  refine ⟨fun _ _ => ofFields_eq .., fun s target idx g hline hm => ⟨fun h => ?_, fun h => ?_⟩⟩
  · have hword : boolWord (!lineLevel g s) = if seenLevel g s then 0 else 1 := by
      rw [seenLevel_eq]
      cases lineLevel g s <;> rfl
    rw [exec_oisena_granted hline hm h, hword, ← trace_run]
    rfl
  · rw [exec_oisena_refused hline hm h, ← trace_run]
    rfl

/-- Settles O41: the output line shows the level just written, and OISENA answers its inverse. -/
theorem enableSymmetry : Obligations.EnableSymmetry := by
  intro s t target idx g op w hop hline hm h hout hexec
  have hlevel : ∃ v, (op, v) ∈ powerWrites ∧ w = boolWord (!v) := by
    simp only [List.mem_cons, List.not_mem_nil, or_false, Prod.mk.injEq] at hop
    obtain ⟨rfl, rfl⟩ | ⟨rfl, rfl⟩ := hop
    · exact ⟨false, .head _, rfl⟩
    · exact ⟨true, .tail _ (.head _), rfl⟩
  obtain ⟨v, hmem, rfl⟩ := hlevel
  obtain ⟨hwrite, hread⟩ := (script_grants_add _ 2 1 _).1 h
  obtain ⟨hread, -⟩ := (script_grants_succ _ _ _).1 hread
  obtain rfl : levelWritten g v s = t :=
    Host.Outcome.next.inj ((exec_powerWrite_granted hline hm hmem hwrite).symm.trans hexec)
  refine ⟨_, exec_oisena_granted (s := levelWritten g v s) hline hm hread, ?_⟩
  rw [lineLevel_levelWritten hout]
  rfl

end Sys2Proof.Machine
end

section
/-! PROOFS. What every operation leaves alone: each body keeps all bits of the register file but those its rule names, and all
special registers but those it writes, whatever way it ends (`exec_keeps`). -/

namespace Sys2Proof.Machine

/-! ### How an operation ends -/

/-- Ending an operation writes no stored register: neither a response nor a fault does (spec/60_exceptions.md R310, R311). -/
theorem latchFile_respond (l : Latch) (r : Response) (s : State) : latchFile l (respond r s) = latchFile l s := by
  cases l <;> rfl

theorem latchFile_takeFault (l : Latch) (f : Raised) (s : State) : latchFile l (takeFault f s) = latchFile l s := by
  cases l
  · exact takeFault_oe f s
  · exact takeFault_dout f s

section Parts

variable {bits : List (Latch × Line)} {sp : List Special} {s : State} {α : Type}

/-- Whatever way an operation ends, the bits its body keeps are as before. -/
theorem Res.Keeps.lineBit_complete {r : Res (List Word)} (h : r.Keeps bits sp s) {l : Latch} {g : Line} (hg : (l, g) ∉ bits) :
    lineBit (latchFile l (complete r)) g = lineBit (latchFile l s) g := by
  cases r with
  | done ws t => exact (congrArg (lineBit · g) (latchFile_respond l _ t)).trans (Machine.Keeps.file h l g hg)
  | rejected reason t => exact (congrArg (lineBit · g) (latchFile_respond l _ t)).trans (Machine.Keeps.file h l g hg)
  | raised f t => exact (congrArg (lineBit · g) (latchFile_takeFault l f t)).trans (Machine.Keeps.file h l g hg)

/-! ### Parts that name a line -/

/-- A part that goes on from a line number: only a line in range is gone on from (spec/40_gpio_register_access.md R132). -/
theorem keeps_resolvePin {pin : Int} {k : Line → State → Res α}
    (h : ∀ g, lineOfInt pin = some g → (k g s).Keeps bits sp s) : ((resolvePin pin s).andThen k).Keeps bits sp s := by
  unfold resolvePin
  split
  next g hpin => exact h g hpin
  next => exact Keeps.refl

/-- A part that goes on from an index: only an index in range is gone on from (spec/41_pin_layout.md R164). -/
theorem keeps_checkIndex {idx : Field8} {n : Nat} {k : Fin n → State → Res α}
    (h : ∀ hlt : idx.toNat < n, (k ⟨idx.toNat, hlt⟩ s).Keeps bits sp s) : ((checkIndex idx n s).andThen k).Keeps bits sp s := by
  by_cases hlt : idx.toNat < n
  · rw [checkIndex_in hlt]
    exact h hlt
  · rw [checkIndex_out (not_lt.1 hlt)]
    exact Keeps.refl

/-- A part that goes on from a power target: only a pair that names a line is gone on from (spec/44_power_enable.md R221). -/
theorem keeps_powerLine {target idx : Field8} {k : Line → State → Res α}
    (h : ∀ g, powerLineOf s.sig target idx = some g → (k g s).Keeps bits sp s) :
    ((powerLine target idx s).andThen k).Keeps bits sp s := by
  cases hline : powerLineOf s.sig target idx with
  | some g =>
    rw [powerLine_line hline]
    exact h g hline
  | none =>
    obtain e | e := powerLine_none hline <;> rw [e] <;> exact Keeps.refl

/-- A write of the level of a signal's line, later in an operation: the signal still names the line it named at the start. -/
theorem Keeps.writeLevel_later {t : State} (ht : Keeps bits sp s t) (line : SignalTable Line → Line) (v : Bool)
    (h : (.dout, line s.sig) ∈ bits) : (writeLevel (line t.sig) v t).Keeps bits sp t :=
  writeLevel_keeps _ _ (by rw [ht.sig]; exact h)

/-! ### The protocols -/

/-- The end of the operations that elevate their priority (spec/45_motion.md R248). -/
theorem released_keeps (p : Phase) : Keeps bits sp s (yieldCpu (release (enter p s))) :=
  ((enter_keeps p).trans release_keeps).trans yieldCpu_keeps

/-- The direction line is written unless the direction is NONE (spec/45_motion.md R245). -/
theorem writeDirection_keeps {d : Drive} {dir : StepDir} (h : dir ≠ .none → (.dout, s.sig.dir.get d) ∈ bits) :
    (writeDirection d dir s).Keeps bits sp s := by
  cases dir with
  | none => exact Keeps.refl
  | extend => exact writeLevel_keeps _ _ (h (by decide))
  | retract => exact writeLevel_keeps _ _ (h (by decide))

/-- The stepping protocol writes the drive's direction line and step line, DEADLINE and the priority (spec/45_motion.md R245). -/
theorem stepPulse_keeps {d : Drive} {dir : StepDir} (freq : Nat) (hdir : dir ≠ .none → (.dout, s.sig.dir.get d) ∈ bits)
    (hstep : (.dout, s.sig.step.get d) ∈ bits) (hdeadline : .deadline ∈ sp) (hprio : .prio ∈ sp) :
    (stepPulse d dir freq s).Keeps bits sp s := by
  have hstart : Keeps bits sp s (enter .stDir (elevate (enter .stPrio s))) :=
    ((enter_keeps .stPrio).trans (elevate_keeps hprio)).trans (enter_keeps .stDir)
  refine keeps_after hstart (keeps_andThen (writeDirection_keeps fun hne => by rw [hstart.sig]; exact hdir hne) fun _ t ht => ?_)
  have hhigh := (hstart.trans ht).trans (enter_keeps .stHigh)
  refine keeps_after (enter_keeps .stHigh) (keeps_andThen (hhigh.writeLevel_later (·.step.get d) true hstep) fun _ u hu => ?_)
  have hwait : Keeps bits sp u (enter .stLow (busyWait (halfTicks u.cfg.clkHz freq) (enter .stWait1 u))) :=
    ((enter_keeps .stWait1).trans (busyWait_keeps _ hdeadline)).trans (enter_keeps .stLow)
  have hlow := (hhigh.trans hu).trans hwait
  refine keeps_after hwait (keeps_andThen (hlow.writeLevel_later (·.step.get d) false hstep) fun _ _ _ => ?_)
  exact (((enter_keeps .stWait2).trans (busyWait_keeps _ hdeadline)).trans (released_keeps .stYield))

/-- The device is selected by its two lines (spec/46_measurement.md R273). -/
theorem selectDevice_keeps (dev : AdcDev) (h₁ : (.dout, s.sig.adcSel1) ∈ bits) (h₂ : (.dout, s.sig.adcSel2) ∈ bits) :
    (selectDevice dev s).Keeps bits sp s :=
  keeps_andThen (writeLevel_keeps _ _ h₁) fun _ _ ht => ht.writeLevel_later (·.adcSel2) _ h₂

theorem checkMeasureArgs_keeps (dev chan : Field8) (n : Word) : (checkMeasureArgs dev chan n s).Keeps bits sp s := by
  unfold checkMeasureArgs
  split
  · exact Keeps.refl
  · exact keeps_checkIndex fun _ => keeps_checkIndex fun _ => Keeps.refl

/-- The devices' part of a measurement (spec/46_measurement.md R271, R273). -/
theorem acquire_keeps (dev : AdcDev) (chan : AdcChan) (n : Nat) (settleCount : Word) (h₁ : (.dout, s.sig.adcSel1) ∈ bits)
    (h₂ : (.dout, s.sig.adcSel2) ∈ bits) (hholding : .holding ∈ sp) (hstats : .stats ∈ sp) (hprio : .prio ∈ sp) :
    (acquire dev chan n settleCount s).Keeps bits sp s := by
  have hbegun : Keeps bits sp s (enter .msPrio (beginMeasure dev chan n s)) :=
    (beginMeasure_keeps dev chan n hstats).trans (enter_keeps .msPrio)
  have hmux : Keeps bits sp s (enter .msMux (elevate (enter .msPrio (beginMeasure dev chan n s)))) :=
    (hbegun.trans (elevate_keeps hprio)).trans (enter_keeps .msMux)
  refine keeps_after hmux (keeps_andThen ?_ fun _ _ _ => ?_)
  · exact selectDevice_keeps dev (by rw [hmux.sig]; exact h₁) (by rw [hmux.sig]; exact h₂)
  refine keeps_after (enter_keeps .msInit) (keeps_andThen (spiXfer_keeps _ hholding) fun _ _ _ => ?_)
  refine keeps_andThen (spiXfer_keeps _ hholding) fun _ _ _ => ?_
  refine keeps_after (enter_keeps .msBurn) (keeps_andThen (spiXfer_keeps _ hholding) fun _ _ _ => ?_)
  exact keeps_after (settle_keeps settleCount) (captureSamples_keeps chan settleCount n 0 hholding hstats)

/-- The computing part of a measurement (spec/46_measurement.md R271, R274 to R279). -/
theorem analyse_keeps (hstats : .stats ∈ sp) : (analyse s).Keeps bits sp s := by
  have hfirst : Keeps bits sp s (updateStats firstPass (enter .msPass1 s)) :=
    (enter_keeps .msPass1).trans (updateStats_keeps _ hstats)
  have hhome := (hfirst.trans (enter_keeps .msHome)).trans (updateStats_keeps (homeTest s.cfg) hstats)
  exact ((hhome.trans (secondPass_keeps hstats)).trans (enter_keeps .msOut)).trans (released_keeps .msYield)

end Parts

/-! ### Every operation -/

/-- The special registers an operation writes (spec/10_state.md). -/
def writtenSpecials : Instr → List Special
  | .gopen | .gmap | .grelease => [.lc]
  | .scfg => [.settings]
  | .sxfer _ => [.holding]
  | .osetustep _ | .ogetustep => [.ustep]
  | .ostep1 _ _ _ => [.deadline, .prio]
  | .ophreset => [.deadline]
  | .omeasure _ _ _ _ => [.holding, .stats, .prio]
  | .grdlvl _ | .gwrlvl _ _ | .ggetdir _ | .gsetdir _ _ | .gcfgall | .pconn _ | .pdefdir _ | .pstep _ | .pdir _ | .pen _
  | .pusboff _ | .aencinit | .aenccfg | .aencsel _ | .aencfifo | .aencpd | .adecode _ | .araw2v _ _ | .oena _ _ | .odis _ _
  | .oisena _ _ => []

/-- An operation ends as its body ends, and its body keeps all bits but those the operation's rule names and all special
registers but those it writes. -/
def ExecKeeps (i : Instr) (s : State) : Prop :=
  ∃ r, exec i s = finish r ∧ r.Keeps (storedBits i s) (writtenSpecials i) s

/-- The line an operand names is among the bits of its register. -/
theorem mem_bits_of_eq_some {operand : Option Line} {g : Line} (h : operand = some g) (l : Latch) :
    (l, g) ∈ operand.toList.map fun g => (l, g) := by
  rw [h]
  exact List.mem_singleton_self _

/-- A direction other than NONE has a code other than 0 (spec/45_motion.md R245). -/
theorem code_ne_zero_of_stepDirOf {dir : Field8} {sd : StepDir} (h : stepDirOf dir = some sd) (hsd : sd ≠ .none) : dir ≠ 0 := by
  rintro rfl
  exact hsd (Option.some.inj h).symm

theorem driveLine_in (table : Vector Line 6) {idx : Field8} (h : idx.toNat < 6) :
    driveLine table idx = some (table.get ⟨idx.toNat, h⟩) := dif_pos h

section Instructions

variable (s : State)

/-- An answer without any access (spec/41_pin_layout.md R160, spec/43_adc_codec.md R200). -/
theorem lookup_keeps {bits : List (Latch × Line)} {sp : List Special} (ws : List Word) :
    (Res.done ws (enter .run s)).Keeps bits sp s := enter_keeps .run

theorem execKeeps_gopen : ExecKeeps .gopen s := by
  refine ⟨_, rfl, ?_⟩
  have hopen : Keeps (storedBits .gopen s) (writtenSpecials .gopen) s (tookOpen (enter .run s)) := .of_quiet rfl
  split
  · exact Keeps.refl
  · dsimp only
    split
    · exact hopen.trans (.set_lc .opened (by decide))
    · exact hopen

theorem execKeeps_gmap : ExecKeeps .gmap s := by
  refine ⟨_, rfl, ?_⟩
  split
  · exact Keeps.refl
  · exact keeps_after (enter_keeps .run) (keeps_andThen (mapBanks_keeps _) fun _ _ _ => Keeps.set_lc .mapped (by decide))

/-- GCFGALL writes the direction bits of the lines it configures (spec/40_gpio_register_access.md R143). -/
theorem execKeeps_gcfgall : ExecKeeps .gcfgall s := by
  refine ⟨_, rfl, keeps_andThen requireMapped_keeps fun _ t ht => ?_⟩
  refine keeps_andThen (configLines_keeps _ fun g _ hg => ?_) fun _ _ _ => Keeps.refl
  rw [ht.cfg] at hg
  exact List.mem_map_of_mem (List.mem_filter.2 ⟨List.mem_finRange g, bne_iff_ne.2 hg⟩)

theorem execKeeps_grelease : ExecKeeps .grelease s := by
  refine ⟨_, rfl, ?_⟩
  split
  · exact Keeps.refl
  · exact (enter_keeps .run).trans (.set_lc .released (by decide))

theorem execKeeps_scfg : ExecKeeps .scfg s := by
  refine ⟨_, rfl, ?_⟩
  have hopen : Keeps (storedBits .scfg s) (writtenSpecials .scfg) s (busOpened s) := .of_quiet rfl
  split
  · exact Keeps.refl
  · dsimp only
    split
    · refine keeps_after hopen (keeps_andThen (eachSetting_keeps _ (fun x _ => setSetting_keeps x) _) fun _ _ _ => ?_)
      refine keeps_andThen (eachSetting_keeps _ (fun x _ => getSetting_keeps x) _) fun _ _ _ => ?_
      exact Keeps.set_settings _ _ _ _ (by decide)
    · exact hopen

theorem execKeeps_araw2v (raw fsUv : Word) : ExecKeeps (.araw2v raw fsUv) s := by
  refine ⟨_, rfl, ?_⟩
  split
  · exact Keeps.refl
  · exact lookup_keeps s _

/-- OSETUSTEP writes both mode lines (spec/45_motion.md R242). -/
theorem execKeeps_osetustep (mode : Field8) : ExecKeeps (.osetustep mode) s := by
  refine ⟨_, rfl, ?_⟩
  split
  · exact Keeps.refl
  · have hstart : Keeps (storedBits (.osetustep mode) s) (writtenSpecials (.osetustep mode)) s
        { enter .run s with ustep := none } := (enter_keeps .run).trans (.set_ustep none (.head _))
    refine keeps_after hstart (keeps_andThen (hstart.writeLevel_later (·.ms1) _ (.head _)) fun _ _ ht => ?_)
    refine keeps_andThen ((hstart.trans ht).writeLevel_later (·.ms2) _ (.tail _ (.head _))) fun _ _ _ => ?_
    exact Keeps.set_ustep _ (.head _)

/-- OSTEP1 writes its drive's step line, and its direction line unless the direction is NONE (spec/45_motion.md R245). -/
theorem execKeeps_ostep1 (drive dir : Field8) (freq : Word) : ExecKeeps (.ostep1 drive dir freq) s := by
  refine ⟨_, rfl, ?_⟩
  split
  · exact Keeps.refl
  next sd hsd =>
    split
    · exact Keeps.refl
    · refine keeps_checkIndex fun hlt => stepPulse_keeps _ (fun hne => ?_) ?_ (.head _) (.tail _ (.head _))
      · refine List.mem_append_left _ ?_
        rw [if_neg (code_ne_zero_of_stepDirOf hsd hne)]
        exact mem_bits_of_eq_some (driveLine_in _ hlt) .dout
      · exact List.mem_append_right _ (mem_bits_of_eq_some (driveLine_in _ hlt) .dout)

/-- OPHRESET writes the phase reset line (spec/45_motion.md R250). -/
theorem execKeeps_ophreset : ExecKeeps .ophreset s := by
  refine ⟨_, rfl, keeps_after (enter_keeps .prLow) ?_⟩
  have hlow : Keeps (storedBits .ophreset s) (writtenSpecials .ophreset) s (enter .prLow s) := enter_keeps .prLow
  refine keeps_andThen (hlow.writeLevel_later (·.phaseReset) false (.head _)) fun _ t ht => ?_
  have hwait : Keeps (storedBits .ophreset s) (writtenSpecials .ophreset) t
      (enter .prHigh (busyWait (halfTicks t.cfg.clkHz t.cfg.phaseResetHz) (enter .prWait t))) :=
    ((enter_keeps .prWait).trans (busyWait_keeps _ (.head _))).trans (enter_keeps .prHigh)
  have hhigh := (hlow.trans ht).trans hwait
  exact keeps_after hwait (keeps_andThen (hhigh.writeLevel_later (·.phaseReset) true (.head _)) fun _ _ _ => Keeps.refl)

/-- OMEASURE writes the two selection lines (spec/46_measurement.md R271, R273). -/
theorem execKeeps_omeasure (dev chan : Field8) (n settleCount : Word) : ExecKeeps (.omeasure dev chan n settleCount) s := by
  refine ⟨_, rfl, keeps_andThen (checkMeasureArgs_keeps dev chan n) fun _ t ht => ?_⟩
  refine keeps_andThen (acquire_keeps _ _ _ _ ?_ ?_ (.head _) (.tail _ (.head _)) (.tail _ (.tail _ (.head _)))) fun _ _ _ => ?_
  · rw [ht.sig]
    exact .head _
  · rw [ht.sig]
    exact .tail _ (.head _)
  · exact analyse_keeps (.tail _ (.head _))

/-- What every operation leaves alone: all bits of the register file but those its rule names, and all special registers but
those it writes. -/
theorem exec_keeps (i : Instr) : ExecKeeps i s := by
  cases i with
  | gopen => exact execKeeps_gopen s
  | gmap => exact execKeeps_gmap s
  | grdlvl pin =>
    refine ⟨_, rfl, keeps_resolvePin fun g _ => keeps_after (enter_keeps .run) ?_⟩
    exact keeps_andThen (readLevel_keeps g) fun _ _ _ => Keeps.refl
  | gwrlvl pin level =>
    refine ⟨_, rfl, keeps_resolvePin fun g hpin => keeps_after (enter_keeps .run) ?_⟩
    exact keeps_andThen (writeLevel_keeps g level (mem_bits_of_eq_some hpin .dout)) fun _ _ _ => Keeps.refl
  | ggetdir pin =>
    refine ⟨_, rfl, keeps_resolvePin fun g _ => keeps_after (enter_keeps .run) ?_⟩
    exact keeps_andThen requireMapped_keeps fun _ _ _ => keeps_andThen (memRead_keeps _ _) fun _ _ _ => Keeps.refl
  | gsetdir pin dir =>
    refine ⟨_, rfl, keeps_resolvePin fun g hpin => keeps_after (enter_keeps .run) ?_⟩
    refine keeps_andThen requireMapped_keeps fun _ _ _ => ?_
    exact keeps_andThen (rmwBit_keeps .oe g dir (mem_bits_of_eq_some hpin .oe)) fun _ _ _ => Keeps.refl
  | gcfgall => exact execKeeps_gcfgall s
  | grelease => exact execKeeps_grelease s
  | pconn pin => exact ⟨_, rfl, lookup_keeps s _⟩
  | pdefdir gpio => exact ⟨_, rfl, lookup_keeps s _⟩
  | pstep d => exact ⟨_, rfl, keeps_checkIndex fun _ => lookup_keeps s _⟩
  | pdir d => exact ⟨_, rfl, keeps_checkIndex fun _ => lookup_keeps s _⟩
  | pen d => exact ⟨_, rfl, keeps_checkIndex fun _ => lookup_keeps s _⟩
  | pusboff j => exact ⟨_, rfl, keeps_checkIndex fun _ => lookup_keeps s _⟩
  | scfg => exact execKeeps_scfg s
  | sxfer word =>
    refine ⟨_, rfl, keeps_after (enter_keeps .run) ?_⟩
    exact keeps_andThen (spiXfer_keeps word (.head _)) fun _ _ _ => Keeps.refl
  | aencinit => exact ⟨_, rfl, lookup_keeps s _⟩
  | aenccfg => exact ⟨_, rfl, lookup_keeps s _⟩
  | aencsel chan => exact ⟨_, rfl, keeps_checkIndex fun _ => lookup_keeps s _⟩
  | aencfifo => exact ⟨_, rfl, lookup_keeps s _⟩
  | aencpd => exact ⟨_, rfl, lookup_keeps s _⟩
  | adecode word => exact ⟨_, rfl, lookup_keeps s _⟩
  | araw2v raw fsUv => exact execKeeps_araw2v s raw fsUv
  | oena target idx =>
    refine ⟨_, rfl, keeps_powerLine fun g hline => keeps_after (enter_keeps .run) ?_⟩
    exact keeps_andThen (writeLevel_keeps g false (mem_bits_of_eq_some hline .dout)) fun _ _ _ => Keeps.refl
  | odis target idx =>
    refine ⟨_, rfl, keeps_powerLine fun g hline => keeps_after (enter_keeps .run) ?_⟩
    exact keeps_andThen (writeLevel_keeps g true (mem_bits_of_eq_some hline .dout)) fun _ _ _ => Keeps.refl
  | oisena target idx =>
    refine ⟨_, rfl, keeps_powerLine fun g _ => keeps_after (enter_keeps .run) ?_⟩
    exact keeps_andThen (readLevel_keeps g) fun _ _ _ => Keeps.refl
  | osetustep mode => exact execKeeps_osetustep s mode
  | ogetustep =>
    refine ⟨_, rfl, keeps_after (enter_keeps .run) (keeps_andThen (readLevel_keeps _) fun _ _ _ => ?_)⟩
    exact keeps_andThen (readLevel_keeps _) fun _ _ _ => Keeps.set_ustep _ (.head _)
  | ostep1 drive dir freq => exact execKeeps_ostep1 s drive dir freq
  | ophreset => exact execKeeps_ophreset s
  | omeasure dev chan n settleCount => exact execKeeps_omeasure s dev chan n settleCount

end Instructions

/-- Settles O12: every operation ends as a body that keeps all bits but the named ones (`exec_keeps`), and ending it writes no
stored register. -/
theorem onlyNamedBitsChange : Obligations.OnlyNamedBitsChange := by
  intro i s t hexec l g hg
  obtain ⟨r, hr, hkeeps⟩ := exec_keeps s i
  obtain rfl : complete r = t := Host.Outcome.next.inj ((finish_next r).symm.trans (hr.symm.trans hexec))
  exact hkeeps.lineBit_complete hg

end Sys2Proof.Machine
end

section
/-! PROOFS. The shared microstep mode: what OSETUSTEP and OGETUSTEP do with every access granted, and that they are inverse on
output lines; and the rounding of a half period (spec/45_motion.md section 1 and R246). -/

namespace Sys2Proof.Machine

/-- Three parts in sequence: going on twice is going on once. -/
theorem andThen_andThen {α β γ : Type} (r : Res α) (k : α → State → Res β) (l : β → State → Res γ) :
    (r.andThen k).andThen l = r.andThen fun a t => (k a t).andThen l := by
  cases r <;> rfl

theorem answered_cfg (ws : List Word) (s : State) : (answered ws s).cfg = s.cfg := rfl
theorem answered_sig (ws : List Word) (s : State) : (answered ws s).sig = s.sig := rfl
theorem answered_lc (ws : List Word) (s : State) : (answered ws s).lc = s.lc := rfl
theorem answered_oe (ws : List Word) (s : State) : (answered ws s).oe = s.oe := rfl
theorem answered_dout (ws : List Word) (s : State) : (answered ws s).dout = s.dout := rfl
theorem answered_env (ws : List Word) (s : State) : (answered ws s).env = s.env := rfl
theorem answered_ustep (ws : List Word) (s : State) : (answered ws s).ustep = s.ustep := rfl
theorem answered_out (ws : List Word) (s : State) : (answered ws s).out = some ws := rfl

/-! ### The mode operand and the two-bit code -/

/-- The four operands of OSETUSTEP name a mode each, and OGETUSTEP answers a mode by the same number (spec/45_motion.md R242,
R243). -/
theorem modeOf_operand {m : Field8} (h : m ∈ [1#8, 2#8, 4#8, 8#8]) :
    ∃ mode, modeOf m = some mode ∧ modeWord mode = m.zeroExtend 32 := by
  simp only [List.mem_cons, List.not_mem_nil, or_false] at h
  obtain rfl | rfl | rfl | rfl := h
  · exact ⟨.m1, rfl, rfl⟩
  · exact ⟨.m2, rfl, rfl⟩
  · exact ⟨.m4, rfl, rfl⟩
  · exact ⟨.m8, rfl, rfl⟩

/-- The code read off two lines that show a code's bits is that code (spec/45_motion.md R241, R243). -/
theorem codeOfLevels_bits (code : BitVec 2) : codeOfLevels (code.getLsbD 0) (code.getLsbD 1) = code := by
  revert code
  decide

/-! ### OSETUSTEP and OGETUSTEP with every access granted -/

/-- The shadow of the mode, set (spec/10_state.md R38). -/
def withShadow (mode : Option UStepMode) (s : State) : State := { s with ustep := mode }

@[simp] theorem withShadow_cfg (mode : Option UStepMode) (s : State) : (withShadow mode s).cfg = s.cfg := rfl
@[simp] theorem withShadow_sig (mode : Option UStepMode) (s : State) : (withShadow mode s).sig = s.sig := rfl
@[simp] theorem withShadow_lc (mode : Option UStepMode) (s : State) : (withShadow mode s).lc = s.lc := rfl
@[simp] theorem withShadow_oe (mode : Option UStepMode) (s : State) : (withShadow mode s).oe = s.oe := rfl
@[simp] theorem withShadow_dout (mode : Option UStepMode) (s : State) : (withShadow mode s).dout = s.dout := rfl
@[simp] theorem withShadow_env (mode : Option UStepMode) (s : State) : (withShadow mode s).env = s.env := rfl

@[simp] theorem rmwDone_dout_oe (g : Line) (v : Bool) (s : State) : (rmwDone .dout g v s).oe = s.oe := rfl

/-- Both mode lines at the bits of a code, MS1 first, each by a granted read-modify-write (spec/45_motion.md R242). -/
def modeLinesWritten (code : BitVec 2) (s : State) : State :=
  rmwDone .dout s.sig.ms2 (code.getLsbD 1) (rmwDone .dout s.sig.ms1 (code.getLsbD 0) s)

@[simp] theorem modeLinesWritten_cfg (code : BitVec 2) (s : State) : (modeLinesWritten code s).cfg = s.cfg := by
  simp [modeLinesWritten]
@[simp] theorem modeLinesWritten_sig (code : BitVec 2) (s : State) : (modeLinesWritten code s).sig = s.sig := by
  simp [modeLinesWritten]
@[simp] theorem modeLinesWritten_lc (code : BitVec 2) (s : State) : (modeLinesWritten code s).lc = s.lc := by
  simp [modeLinesWritten]
@[simp] theorem modeLinesWritten_oe (code : BitVec 2) (s : State) : (modeLinesWritten code s).oe = s.oe := by
  simp [modeLinesWritten]
theorem modeLinesWritten_dout (code : BitVec 2) (s : State) : (modeLinesWritten code s).dout =
    rmwFile (rmwFile s.dout s.sig.ms1 (code.getLsbD 0)) s.sig.ms2 (code.getLsbD 1) := rfl
theorem modeLinesWritten_accessOk (code : BitVec 2) (s : State) :
    (modeLinesWritten code s).env.accessOk = s.env.accessOk.drop 4 := rfl

/-- The two writes of OSETUSTEP with their four accesses granted; MS2's line is that of the state after the first. -/
theorem writeModeLines_granted {s : State} (hm : s.lc = .mapped) (h : accessesGranted 4 s) (code : BitVec 2) :
    ((writeLevel s.sig.ms1 (code.getLsbD 0) s).andThen fun _ t => writeLevel t.sig.ms2 (code.getLsbD 1) t) =
      .done () (modeLinesWritten code s) := by
  obtain ⟨hfirst, hsecond⟩ := (script_grants_add _ 2 2 _).1 h
  rw [writeLevel_granted hm hfirst, andThen_done]
  exact writeLevel_granted (s := rmwDone .dout s.sig.ms1 (code.getLsbD 0) s) hm hsecond s.sig.ms2 (code.getLsbD 1)

/-- What a granted OSETUSTEP leaves before it answers (spec/45_motion.md R242). -/
def modeSet (mode : UStepMode) (s : State) : State :=
  withShadow (some mode) (modeLinesWritten (ustepCodeOf s.cfg.ustepCode mode) (withShadow none (enter .run s)))

theorem modeSet_cfg (mode : UStepMode) (s : State) : (modeSet mode s).cfg = s.cfg := by simp [modeSet]
theorem modeSet_sig (mode : UStepMode) (s : State) : (modeSet mode s).sig = s.sig := by simp [modeSet]
theorem modeSet_lc (mode : UStepMode) (s : State) : (modeSet mode s).lc = s.lc := by simp [modeSet]
theorem modeSet_oe (mode : UStepMode) (s : State) : (modeSet mode s).oe = s.oe := by simp [modeSet]
theorem modeSet_ustep (mode : UStepMode) (s : State) : (modeSet mode s).ustep = some mode := rfl
theorem modeSet_accessOk (mode : UStepMode) (s : State) : (modeSet mode s).env.accessOk = s.env.accessOk.drop 4 := by
  simp [modeSet, modeLinesWritten_accessOk]

/-- OSETUSTEP of a mode with its four accesses granted (spec/45_motion.md R242). -/
theorem exec_osetustep_granted {s : State} {m : Field8} {mode : UStepMode} (hmode : modeOf m = some mode) (hm : s.lc = .mapped)
    (h : accessesGranted 4 s) : exec (.osetustep m) s = .next (answered [0x00000000#32] (modeSet mode s)) := by
  have hwrites := writeModeLines_granted (s := withShadow none (enter .run s)) hm h (ustepCodeOf s.cfg.ustepCode mode)
  have hexec : exec (.osetustep m) s = finish ((((writeLevel (withShadow none (enter .run s)).sig.ms1
      ((ustepCodeOf s.cfg.ustepCode mode).getLsbD 0) (withShadow none (enter .run s))).andThen fun _ t =>
        writeLevel t.sig.ms2 ((ustepCodeOf s.cfg.ustepCode mode).getLsbD 1) t)).andThen fun _ t =>
          .done [] (withShadow (some mode) t)) := by
    rw [exec, execOsetustep, hmode, andThen_andThen]
    rfl
  rw [hexec, hwrites, andThen_done, finish_done, respond_ok]
  rfl

/-- What a granted OGETUSTEP leaves before it answers (spec/45_motion.md R243). -/
def modeGot (mode : UStepMode) (s : State) : State :=
  withShadow (some mode) (readDone s.sig.ms2 (readDone s.sig.ms1 (enter .run s)))

theorem modeGot_ustep (mode : UStepMode) (s : State) : (modeGot mode s).ustep = some mode := rfl

/-- OGETUSTEP on output lines with both reads granted: an output line shows its data-out bit, so the mode is that of the
register file, whatever the shadow held (spec/45_motion.md R243, spec/10_state.md R25). -/
theorem exec_ogetustep_outputs {s : State} {mode : UStepMode} (hm : s.lc = .mapped) (h : accessesGranted 2 s)
    (h₁ : lineBit s.oe s.sig.ms1 = false) (h₂ : lineBit s.oe s.sig.ms2 = false)
    (hmode : modeOfCode s.cfg.ustepCode (codeOfLevels (lineBit s.dout s.sig.ms1) (lineBit s.dout s.sig.ms2)) = mode) :
    exec .ogetustep s = .next (answered [0x00000000#32, modeWord mode] (modeGot mode s)) := by
  obtain ⟨hg₁, hg⟩ := (script_grants_succ _ _ _).1 h
  obtain ⟨hg₂, -⟩ := (script_grants_succ _ _ _).1 hg
  have hfirst := readLevel_granted (s := enter .run s) hm hg₁ s.sig.ms1
  have hsecond := readLevel_granted (s := readDone s.sig.ms1 (enter .run s)) hm hg₂ s.sig.ms2
  rw [lineLevel_of_output (s := enter .run s) h₁] at hfirst
  rw [lineLevel_of_output (s := readDone s.sig.ms1 (enter .run s)) h₂] at hsecond
  subst hmode
  have hexec : exec .ogetustep s = finish ((readLevel s.sig.ms1 (enter .run s)).andThen fun b₀ t =>
      (readLevel t.sig.ms2 t).andThen fun b₁ u =>
        .done [modeWord (modeOfCode u.cfg.ustepCode (codeOfLevels b₀ b₁))]
          (withShadow (some (modeOfCode u.cfg.ustepCode (codeOfLevels b₀ b₁))) u)) := rfl
  have hsig : (readDone s.sig.ms1 (enter .run s)).sig.ms2 = s.sig.ms2 := rfl
  rw [hexec, hfirst, andThen_done, hsig, hsecond, andThen_done, finish_done, respond_ok]
  rfl

/-! ### The round trip -/

/-- After a granted OSETUSTEP of two different lines, they hold the mode's code (spec/45_motion.md R242). -/
theorem codeOfLevels_modeSet {s : State} (hne : s.sig.ms1 ≠ s.sig.ms2) (mode : UStepMode) :
    codeOfLevels (lineBit (modeSet mode s).dout s.sig.ms1) (lineBit (modeSet mode s).dout s.sig.ms2) =
      ustepCodeOf s.cfg.ustepCode mode := by
  simp only [modeSet, withShadow_dout, modeLinesWritten_dout, withShadow_sig, enter_sig, lineBit_rmwFile, if_true, if_neg hne,
    codeOfLevels_bits]

/-- Settles O44: OSETUSTEP leaves the mode's code on two different output lines, OGETUSTEP reads it back there, and the code
table is injective (`modeOfCode_code`). -/
theorem ustepRoundTrip : Obligations.UstepRoundTrip := by
  intro s t m hvalid hsig hmem hm h h₁ h₂ hexec
  obtain ⟨mode, hmode, hword⟩ := modeOf_operand hmem
  obtain ⟨hset, hget⟩ := (script_grants_add _ 4 2 _).1 h
  obtain rfl : answered [0x00000000#32] (modeSet mode s) = t :=
    Host.Outcome.next.inj ((exec_osetustep_granted hmode hm hset).symm.trans hexec)
  have hne : s.sig.ms1 ≠ s.sig.ms2 := by
    rw [hsig]
    exact (paired_lines_ne hvalid).1
  have hrun : exec .ogetustep (answered [0x00000000#32] (modeSet mode s)) =
      .next (answered [0x00000000#32, modeWord mode] (modeGot mode (answered [0x00000000#32] (modeSet mode s)))) := by
    apply exec_ogetustep_outputs
    · rw [answered_lc, modeSet_lc, hm]
    · rw [accessesGranted, answered_env, modeSet_accessOk, hget]
    · rw [answered_oe, answered_sig, modeSet_oe, modeSet_sig, h₁]
    · rw [answered_oe, answered_sig, modeSet_oe, modeSet_sig, h₂]
    · rw [answered_cfg, answered_sig, answered_dout, modeSet_cfg, modeSet_sig, codeOfLevels_modeSet hne, modeOfCode_code hvalid]
  refine ⟨_, hrun, ?_, ?_⟩
  · rw [answered_out, hword]
  · rw [answered_ustep, answered_ustep, modeGot_ustep, modeSet_ustep]

/-! ### The rounding of a half period -/

/-- Settles O45: dividing after adding all but one of the divisor rounds up (`halfTicks_spec`). -/
theorem halfTicksLeast : Obligations.HalfTicksLeast :=
  fun clkHz _ h hf => halfTicks_spec hf clkHz h

end Sys2Proof.Machine
end

section
/-! PROOFS. The step pulse up to the falling edge, the two ways it goes on from there, and what its visible actions show
(spec/45_motion.md R245 to R249). -/

namespace Sys2Proof.Machine

/-! ### The words written, bit by bit -/

/-- A read-modify-write of a line's bit writes the old word with that bit alone replaced (spec/40_gpio_register_access.md
R136). -/
theorem bitWritten_rmwWord (r : Vector Word 6) (g : Line) (v : Bool) : BitWritten (r.get (bankOf g)) (rmwWord r g v) g v :=
  fun _ hi => withBit_getLsbD _ g v hi

/-- A bank of the file after a read-modify-write: the word written if it is the line's bank, else what it was. -/
theorem rmwFile_get_bank (r : Vector Word 6) (g : Line) (v : Bool) (k : BankIdx) :
    (rmwFile r g v).get k = if bankOf g = k then rmwWord r g v else r.get k := by
  rw [rmwFile, get_set_bank]
  simp only [eq_comm]

/-! ### The first access refused -/

/-- Among answers that are not all favourable there is a first that is not. -/
theorem script_first_refused {free : Nat → Bool} {n : Nat} {q : Script Bool} (h : ¬ q.grants free n = true) :
    ∃ k < n, q.grants free k = true ∧ ¬ q.grants free (k + 1) = true := by
  induction n with
  | zero => exact absurd (script_grants_zero free q) h
  | succ n ih =>
    by_cases hn : q.grants free n = true
    · exact ⟨n, n.lt_succ_self, hn, h⟩
    · obtain ⟨k, hk, hgranted, hrefused⟩ := ih hn
      exact ⟨k, hk.trans n.lt_succ_self, hgranted, hrefused⟩

/-! ### The direction line -/

/-- The direction operands name a direction each, with its level of the line (spec/45_motion.md R245). -/
theorem stepDirOf_operand {c : Config} {dir : Field8} {level : Option Bool}
    (h : (dir, level) ∈ [(0#8, none), (1#8, some c.dirLevelExtend), (2#8, some (!c.dirLevelExtend))]) :
    ∃ sd, stepDirOf dir = some sd ∧ dirLevel c sd = level := by
  simp only [List.mem_cons, List.not_mem_nil, or_false, Prod.mk.injEq] at h
  obtain ⟨rfl, rfl⟩ | ⟨rfl, rfl⟩ | ⟨rfl, rfl⟩ := h
  · exact ⟨.none, rfl, rfl⟩
  · exact ⟨.extend, rfl, rfl⟩
  · exact ⟨.retract, rfl, rfl⟩

/-- OSTEP1 of a drive in range at a frequency other than 0 is the stepping protocol (spec/45_motion.md R245). -/
theorem exec_ostep1 {dir : Field8} {sd : StepDir} (hdir : stepDirOf dir = some sd) {f : Word} (hf : f ≠ 0) (d : Drive)
    (s : State) : exec (.ostep1 (BitVec.ofNat 8 d.val) dir f) s = finish (stepPulse d sd f.toNat s) := by
  rw [exec, execOstep1, hdir]
  dsimp only
  rw [if_neg hf, checkIndex_fin (by decide), andThen_done]

/-- The word step 2 writes to the direction line's register; with no direction the line is not accessed, and the word
speaks of none. -/
def dirWord (d : Drive) (level : Option Bool) (s : State) : Word := rmwWord s.dout (s.sig.dir.get d) (level.getD false)

/-- The state in which OSTEP1 comes to step 3, the direction line's accesses granted (spec/45_motion.md R245). -/
def pulseDirected (d : Drive) (level : Option Bool) (s : State) : State := directed d level (pulseStarted s)

section Directed

variable (d : Drive) (level : Option Bool) (s : State)

@[simp] theorem pulseDirected_cfg : (pulseDirected d level s).cfg = s.cfg := by cases level <;> rfl
@[simp] theorem pulseDirected_sig : (pulseDirected d level s).sig = s.sig := by cases level <;> rfl
@[simp] theorem pulseDirected_lc : (pulseDirected d level s).lc = s.lc := by cases level <;> rfl
theorem pulseDirected_accessOk :
    (pulseDirected d level s).env.accessOk = s.env.accessOk.drop (dirAccesses level) := by cases level <;> rfl

theorem pulseDirected_clk : s.clk ≤ (pulseDirected d level s).clk := by
  cases level with
  | none => exact Nat.le_refl _
  | some v => exact Nat.le_add_right _ _

/-- The bank of the step line when step 3 reads it: the direction's word if the two lines share a bank. -/
theorem pulseDirected_bank (k : BankIdx) : (pulseDirected d level s).dout.get k =
    if level.isSome = true ∧ bankOf (s.sig.dir.get d) = k then dirWord d level s else s.dout.get k := by
  cases level with
  | none => exact (if_neg fun h => Bool.false_ne_true h.1).symm
  | some v =>
    simp only [Option.isSome_some, true_and]
    exact rmwFile_get_bank s.dout (s.sig.dir.get d) v k

/-- The visible actions up to step 3 (spec/45_motion.md R245). -/
theorem pulseDirected_trace : (pulseDirected d level s).trace = s.trace ++
    ([.phase .stPrio, .elevate (prioGranted s), .phase .stDir]
      ++ if level.isSome then [.read (regAddr s.cfg (bankOf (s.sig.dir.get d)) .dout) (s.dout.get (bankOf (s.sig.dir.get d))),
        .write (regAddr s.cfg (bankOf (s.sig.dir.get d)) .dout) (dirWord d level s)] else []) := by
  cases level with
  | none => rfl
  | some v => exact List.append_assoc ..

/-- Later accesses are granted after those of the direction line. -/
theorem accessesGranted_pulseDirected (n : Nat) : accessesGranted (dirAccesses level + n) s ↔
    accessesGranted (dirAccesses level) s ∧ accessesGranted n (pulseDirected d level s) := by
  rw [accessesGranted, accessesGranted, accessesGranted, pulseDirected_accessOk]
  exact script_grants_add _ _ _ _

end Directed

/-- Step 2 of the protocol, its accesses granted (spec/45_motion.md R245). -/
theorem writeDirection_pulseStarted {d : Drive} {sd : StepDir} {level : Option Bool} {s : State}
    (hlevel : dirLevel s.cfg sd = level) (hm : s.lc = .mapped) (h : accessesGranted (dirAccesses level) s) :
    writeDirection d sd (pulseStarted s) = .done () (pulseDirected d level s) := by
  subst hlevel
  exact writeDirection_granted (s := pulseStarted s) hm h

/-! ### The first half of the pulse -/

/-- The state in which OSTEP1 comes to the accesses of step 5: the step line high, the first wait over (spec/45_motion.md R245). -/
def pulseHigh (d : Drive) (level : Option Bool) (h : Nat) (s : State) : State :=
  enter .stLow (halfPulse .stWait1 (s.sig.step.get d) true h (enter .stHigh (pulseDirected d level s)))

/-- The word step 3 writes to the step line's register, its bit at 1. -/
def highWord (d : Drive) (level : Option Bool) (s : State) : Word :=
  rmwWord (pulseDirected d level s).dout (s.sig.step.get d) true

/-- The word step 5 writes to the step line's register, its bit at 0. -/
def lowWord (d : Drive) (level : Option Bool) (h : Nat) (s : State) : Word :=
  rmwWord (pulseHigh d level h s).dout (s.sig.step.get d) false

section High

variable (d : Drive) (level : Option Bool) (h : Nat) (s : State)

@[simp] theorem pulseHigh_cfg : (pulseHigh d level h s).cfg = s.cfg := by simp [pulseHigh, halfPulse]

/-- The pulse is high: step 3 wrote the step line with its bit at 1 (spec/45_motion.md R245). -/
theorem pulseHigh_dout : (pulseHigh d level h s).dout =
    rmwFile (pulseDirected d level s).dout (s.sig.step.get d) true := rfl

theorem pulseHigh_bank : (pulseHigh d level h s).dout.get (bankOf (s.sig.step.get d)) = highWord d level s := by
  rw [pulseHigh_dout, rmwFile_get, highWord]

theorem pulseHigh_stepLine : lineBit (pulseHigh d level h s).dout (s.sig.step.get d) = true := by
  rw [pulseHigh_dout, lineBit_rmwFile, if_pos rfl]

/-- What the first half of the pulse shows after step 2, and how long its wait lasts (spec/45_motion.md R245, R247). -/
theorem pulseHigh_shape : ∃ t0, s.clk ≤ t0 ∧ t0 + h ≤ (pulseHigh d level h s).clk ∧ (pulseHigh d level h s).deadline = t0 + h ∧
    (pulseHigh d level h s).trace = (pulseDirected d level s).trace ++
      [.phase .stHigh,
        .read (regAddr s.cfg (bankOf (s.sig.step.get d)) .dout) ((pulseDirected d level s).dout.get (bankOf (s.sig.step.get d))),
        .write (regAddr s.cfg (bankOf (s.sig.step.get d)) .dout) (highWord d level s),
        .phase .stWait1, .wait t0 (t0 + h) (pulseHigh d level h s).clk, .phase .stLow] := by
  obtain ⟨t0, e0, ticks, heq, hbegin, hend⟩ :=
    halfPulse_shape .stWait1 (s.sig.step.get d) true h (enter .stHigh (pulseDirected d level s))
  have hstart : s.clk ≤ t0 := (pulseDirected_clk d level s).trans hbegin
  have hhigh : pulseHigh d level h s = _ := congrArg (enter .stLow) heq
  rw [hhigh]
  exact ⟨t0, hstart, hend, rfl, by simp [highWord]⟩

/-- The accesses of step 5 come after those of the first half. -/
theorem accessesGranted_pulseHigh (n : Nat) : accessesGranted (2 + n) (pulseDirected d level s) ↔
    accessesGranted 2 (pulseDirected d level s) ∧ accessesGranted n (pulseHigh d level h s) := script_grants_add _ 2 n _

end High

/-! ### The falling edge: granted, or refused -/

/-- What OSTEP1 leaves before it answers, every access granted (spec/45_motion.md R245, steps 5 to 7). -/
def pulseCompleted (d : Drive) (level : Option Bool) (h : Nat) (s : State) : State :=
  yieldCpu (release (enter .stYield (halfPulse .stWait2 (s.sig.step.get d) false h (pulseHigh d level h s))))

/-- What the second half of the pulse shows, and how long its wait lasts (spec/45_motion.md R245, R247). -/
theorem pulseCompleted_shape (d : Drive) (level : Option Bool) (h : Nat) (s : State) : ∃ t1,
    (pulseHigh d level h s).clk ≤ t1 ∧ t1 + h ≤ (pulseCompleted d level h s).clk ∧
    (pulseCompleted d level h s).trace = (pulseHigh d level h s).trace ++
      [.read (regAddr s.cfg (bankOf (s.sig.step.get d)) .dout) (highWord d level s),
        .write (regAddr s.cfg (bankOf (s.sig.step.get d)) .dout) (lowWord d level h s),
        .phase .stWait2, .wait t1 (t1 + h) (pulseCompleted d level h s).clk, .phase .stYield, .yielded] := by
  obtain ⟨t1, e1, ticks, heq, hbegin, hend⟩ :=
    halfPulse_shape .stWait2 (s.sig.step.get d) false h (pulseHigh d level h s)
  have hdone : pulseCompleted d level h s = _ := congrArg (fun u => yieldCpu (release (enter .stYield u))) heq
  rw [hdone]
  exact ⟨t1, hbegin, hend, by simp [lowWord, pulseHigh_bank]⟩

/-- What a refused access of step 5 adds to the history: the read if it was the write that was refused, then the failure
(spec/45_motion.md R249 (5)). -/
theorem rmwRefused_low_trace (d : Drive) (level : Option Bool) (h k : Nat) (s : State) :
    (rmwRefused .dout (s.sig.step.get d) k (pulseHigh d level h s)).trace = (pulseHigh d level h s).trace ++
      ((if k = 0 then [] else [.read (regAddr s.cfg (bankOf (s.sig.step.get d)) .dout) (highWord d level s)])
        ++ [.accessFailed (regAddr s.cfg (bankOf (s.sig.step.get d)) .dout)]) := by
  rw [← pulseHigh_bank d level h s, ← pulseHigh_cfg d level h s]
  rfl

section Outcomes

variable {s : State} {dir : Field8} {sd : StepDir} {level : Option Bool} {f : Word} (hdir : stepDirOf dir = some sd)
  (hlevel : dirLevel s.cfg sd = level) (hf : f ≠ 0) (hm : s.lc = .mapped) (d : Drive)

include hdir hlevel hf hm

/-- OSTEP1 with every access granted (spec/45_motion.md R245). -/
theorem exec_ostep1_granted (h : accessesGranted (dirAccesses level + 4) s) :
    exec (.ostep1 (BitVec.ofNat 8 d.val) dir f) s =
      .next (answered [0x00000000#32] (pulseCompleted d level (halfTicks s.cfg.clkHz f.toNat) s)) := by
  obtain ⟨hfirst, hstep⟩ := (accessesGranted_pulseDirected d level s 4).1 h
  have hwrite := writeDirection_pulseStarted (d := d) hlevel hm hfirst
  have hlc : (pulseDirected d level s).lc = .mapped := (pulseDirected_lc d level s).trans hm
  rw [exec_ostep1 hdir hf, stepPulse_granted hwrite hlc hstep, finish_done, respond_ok, pulseDirected_sig, pulseDirected_cfg]
  rfl

/-- OSTEP1 when the access number `k` of step 5 is the first refused (spec/45_motion.md R249 (5)). -/
theorem exec_ostep1_refused_low {k : Nat} (hk : k < 2) (hfirst : accessesGranted (dirAccesses level) s)
    (h : accessesGranted (2 + k) (pulseDirected d level s)) (hn : ¬ accessesGranted (2 + k + 1) (pulseDirected d level s)) :
    exec (.ostep1 (BitVec.ofNat 8 d.val) dir f) s =
      .next (afterDeviceFault (.deviceIo (.register (regAddr s.cfg (bankOf (s.sig.step.get d)) .dout)))
        (rmwRefused .dout (s.sig.step.get d) k (pulseHigh d level (halfTicks s.cfg.clkHz f.toNat) s))) := by
  have hwrite := writeDirection_pulseStarted (d := d) hlevel hm hfirst
  have hlc : (pulseDirected d level s).lc = .mapped := (pulseDirected_lc d level s).trans hm
  rw [exec_ostep1 hdir hf, stepPulse_refused_low hwrite hlc hk h hn, finish_deviceFault rfl, pulseDirected_sig,
    pulseDirected_cfg]
  rfl

end Outcomes

/-- Step 5 refused: which of its two accesses was, by the accesses granted from the start (spec/45_motion.md R249 (5)). -/
theorem exists_refused_low {d : Drive} {level : Option Bool} {s : State} (h : accessesGranted (dirAccesses level + 2) s)
    (hn : ¬ accessesGranted (dirAccesses level + 4) s) : ∃ k < 2, accessesGranted (2 + k) (pulseDirected d level s) ∧
      ¬ accessesGranted (2 + k + 1) (pulseDirected d level s) ∧ (k = 0 ↔ ¬ accessesGranted (dirAccesses level + 3) s) := by
  obtain ⟨hfirst, hhigh⟩ := (accessesGranted_pulseDirected d level s 2).1 h
  have hlater (n : Nat) : accessesGranted (dirAccesses level + (2 + n)) s ↔ accessesGranted n (pulseHigh d level 0 s) := by
    rw [accessesGranted_pulseDirected d, accessesGranted_pulseHigh d level 0, and_iff_right hfirst, and_iff_right hhigh]
  obtain ⟨k, hk, hgranted, hrefused⟩ := script_first_refused (mt (hlater 2).2 hn)
  refine ⟨k, hk, (accessesGranted_pulseHigh d level 0 s k).2 ⟨hhigh, hgranted⟩,
    fun hnext => hrefused ((accessesGranted_pulseHigh d level 0 s (k + 1)).1 hnext).2, ?_⟩
  rw [hlater 1]
  obtain rfl | rfl : k = 0 ∨ k = 1 := by omega
  · exact iff_of_true rfl hrefused
  · exact iff_of_false Nat.one_ne_zero (not_not.2 hgranted)

/-- Settles O49: the actions up to the falling edge are those of `pulseDirected` and `pulseHigh`; from there the pulse completes
(`pulseCompleted_shape`), or its first refused access leaves the line high. -/
theorem stepPulseActions : Obligations.StepPulseActions := by
  intro s d dir f level hmem hf hm gd g ad a h first hgranted
  obtain ⟨sd, hdir, hlevel⟩ := stepDirOf_operand hmem
  obtain ⟨hfirst, -⟩ := (accessesGranted_pulseDirected d level s 2).1 hgranted
  have hdirWord (v : Bool) (hv : level = some v) : BitWritten (s.dout.get (bankOf gd)) (dirWord d level s) gd v := by
    subst hv
    exact bitWritten_rmwWord s.dout gd v
  have hbefore := pulseDirected_bank d level s (bankOf g)
  have hhigh : BitWritten ((pulseDirected d level s).dout.get (bankOf g)) (highWord d level s) g true :=
    bitWritten_rmwWord _ g true
  obtain ⟨t0, hbegin, hwait, hdeadline, htrace⟩ := pulseHigh_shape d level h s
  rw [pulseDirected_trace, List.append_assoc] at htrace
  by_cases hall : accessesGranted (first + 4) s
  · obtain ⟨t1, hsecond, hend, hrest⟩ := pulseCompleted_shape d level h s
    rw [htrace, List.append_assoc] at hrest
    have hclk : (pulseHigh d level h s).clk ≤ (pulseCompleted d level h s).clk :=
      (hsecond.trans (Nat.le_add_right t1 h)).trans hend
    have hlow : BitWritten (highWord d level s) (lowWord d level h s) g false := by
      rw [← pulseHigh_bank d level h s]
      exact bitWritten_rmwWord _ g false
    exact ⟨_, _, _, _, t0, _, exec_ostep1_granted hdir hlevel hf hm d hall, hdirWord, hbefore, hhigh, hbegin, hwait, hclk,
      _, hrest, fun _ => ⟨_, t1, hlow, hsecond, hend, rfl⟩, fun hn => absurd hall hn⟩
  · obtain ⟨k, hk, hlowGranted, hlowRefused, hread⟩ := exists_refused_low (d := d) hgranted hall
    have hrest := rmwRefused_low_trace d level h k s
    rw [htrace, List.append_assoc] at hrest
    simp only [hread, ite_not] at hrest
    exact ⟨_, _, _, _, t0, _, exec_ostep1_refused_low hdir hlevel hf hm d hk hfirst hlowGranted hlowRefused, hdirWord, hbefore,
      hhigh, hbegin, hwait, Nat.le_add_right _ _, _, hrest, fun hg => absurd hg hall,
      fun _ => ⟨rfl, rfl, rfl, pulseHigh_stepLine d level h s, hdeadline, rfl⟩⟩

end Sys2Proof.Machine
end

section
/-! PROOFS. Which special registers every operation writes, and what its end adds to that: `seq`, `PRIO` and `FAULT`
(spec/10_state.md sections 3 to 9, spec/60_exceptions.md R308 to R312). -/

namespace Sys2Proof.Machine

/-! ### The end of an operation, by the state its body leaves -/

/-- The state a part of an operation leaves, whatever way it ends. -/
def Res.left {α : Type} : Res α → State
  | .done _ s | .rejected _ s | .raised _ s => s

/-- What a part keeps, the state it leaves keeps. -/
theorem Res.Keeps.left {α : Type} {r : Res α} {bits : List (Latch × Line)} {sp : List Special} {s : State}
    (h : r.Keeps bits sp s) : Machine.Keeps bits sp s r.left := by cases r <;> exact h

section Complete

variable (r : Res (List Word))

theorem complete_cfg : (complete r).cfg = r.left.cfg := by cases r <;> simp [complete, Res.left]
theorem complete_sig : (complete r).sig = r.left.sig := by cases r <;> simp [complete, Res.left]
theorem complete_host : (complete r).host = r.left.host := by cases r <;> simp [complete, Res.left]
theorem complete_spi : (complete r).spi = r.left.spi := by cases r <;> simp [complete, Res.left]
theorem complete_ustep : (complete r).ustep = r.left.ustep := by cases r <;> simp [complete, Res.left]
theorem complete_st : (complete r).st = r.left.st := by cases r <;> simp [complete, Res.left]
theorem complete_deadline : (complete r).deadline = r.left.deadline := by cases r <;> simp [complete, Res.left]
theorem complete_clk : (complete r).clk = r.left.clk := by cases r <;> simp [complete, Res.left]
theorem complete_prioFails : (complete r).prioFails = r.left.prioFails := by cases r <;> simp [complete, Res.left]

/-- Every end of an operation puts PRIO back to NORMAL (spec/40_gpio_register_access.md R130, spec/60_exceptions.md R311). -/
theorem complete_prio : (complete r).prio = .normal := by cases r <;> simp [complete]

end Complete

/-- A fault is taken by fault entry or by halt entry (spec/60_exceptions.md R310, R311). -/
theorem takeFault_cases (f : Raised) (s : State) : takeFault f s = afterDeviceFault f s ∨ takeFault f s = afterHalt f s := by
  cases hf : f.halts
  · exact .inl (takeFault_device hf s)
  · exact .inr (takeFault_halt hf s)

/-- An operation that is answered ends with `seq` at IDLE (spec/40_gpio_register_access.md R130). -/
theorem complete_seq {r : Res (List Word)} (h : (complete r).out ≠ none) : (complete r).seq = .idle := by
  cases r with
  | done ws t => rfl
  | rejected reason t => rfl
  | raised f t =>
    obtain e | e := takeFault_cases f t <;> rw [complete, e] at h ⊢
    · rfl
    · exact absurd rfl h

/-- Only halt entry writes LC at the end of an operation (spec/60_exceptions.md R311). -/
theorem complete_lc (r : Res (List Word)) :
    (complete r).lc = r.left.lc ∨ (complete r).lc = .halted ∧ (complete r).fault.halted = true := by
  cases r with
  | done ws t => exact .inl rfl
  | rejected reason t => exact .inl rfl
  | raised f t =>
    obtain e | e := takeFault_cases f t <;> rw [complete, e]
    · exact .inl rfl
    · exact .inr ⟨rfl, rfl⟩

/-- An operation that is answered with anything but DEVICE_FAULT writes no FAULT (spec/60_exceptions.md R308, R312). -/
theorem complete_fault {r : Res (List Word)} (hout : (complete r).out ≠ none) (hdev : (complete r).out ≠ some [0x02000000#32]) :
    (complete r).fault = r.left.fault := by
  cases r with
  | done ws t => rfl
  | rejected reason t => rfl
  | raised f t =>
    obtain e | e := takeFault_cases f t <;> rw [complete, e] at hout hdev
    · exact absurd rfl hdev
    · exact absurd rfl hout

/-! ### Who writes each special register -/

section Writers

variable {i : Instr}

theorem settings_written (h : .settings ∈ writtenSpecials i) : i = .scfg := by cases i <;> simp [writtenSpecials] at h ⊢

theorem holding_written (h : .holding ∈ writtenSpecials i) : (∃ w, i = .sxfer w) ∨ ∃ d c n x, i = .omeasure d c n x := by
  cases i <;> simp [writtenSpecials] at h ⊢

theorem ustep_written (h : .ustep ∈ writtenSpecials i) : (∃ m, i = .osetustep m) ∨ i = .ogetustep := by
  cases i <;> simp [writtenSpecials] at h ⊢

theorem stats_written (h : .stats ∈ writtenSpecials i) : ∃ d c n x, i = .omeasure d c n x := by
  cases i <;> simp [writtenSpecials] at h ⊢

theorem deadline_written (h : .deadline ∈ writtenSpecials i) : (∃ d r f, i = .ostep1 d r f) ∨ i = .ophreset := by
  cases i <;> simp [writtenSpecials] at h ⊢

theorem prio_written (h : .prio ∈ writtenSpecials i) : (∃ d r f, i = .ostep1 d r f) ∨ ∃ d c n x, i = .omeasure d c n x := by
  cases i <;> simp [writtenSpecials] at h ⊢

theorem lc_written (h : .lc ∈ writtenSpecials i) : i = .gopen ∨ i = .gmap ∨ i = .grelease := by
  cases i <;> simp [writtenSpecials] at h ⊢

end Writers

/-- Settles O14: the body of every operation keeps the special registers but those it writes (`exec_keeps`), and the end of the
operation writes `seq`, `PRIO` and, for a fault alone, `FAULT` and LC. -/
theorem specialStateFrame : Obligations.SpecialStateFrame := by
  intro i s t hexec
  obtain ⟨r, hr, hres⟩ := exec_keeps s i
  obtain rfl : complete r = t := Host.Outcome.next.inj ((finish_next r).symm.trans (hr.symm.trans hexec))
  have hkeeps := hres.left
  rw [complete_cfg, complete_sig, complete_host, complete_spi, complete_ustep, complete_st, complete_deadline, complete_clk,
    complete_prioFails]
  refine ⟨⟨hkeeps.cfg, hkeeps.sig, hkeeps.host⟩, fun hscfg => hkeeps.settings fun hw => hscfg (settings_written hw),
    fun hsxfer hmeas => hkeeps.holding fun hw => ?_, fun hset hget => hkeeps.ustep fun hw => ?_,
    fun hmeas => hkeeps.stats fun hw => ?_, fun hstep hreset => hkeeps.deadline fun hw => ?_, hkeeps.clock,
    fun hstep hmeas => hkeeps.prio fun hw => ?_, fun hopen hmap hrelease => ?_, ⟨complete_prio r, complete_seq⟩,
    fun hout hdev => (complete_fault hout hdev).trans hkeeps.fault⟩
  · obtain ⟨w, e⟩ | ⟨d, c, n, x, e⟩ := holding_written hw
    · exact hsxfer w e
    · exact hmeas d c n x e
  · obtain ⟨m, e⟩ | e := ustep_written hw
    · exact hset m e
    · exact hget e
  · obtain ⟨d, c, n, x, e⟩ := stats_written hw
    exact hmeas d c n x e
  · obtain ⟨d, r, f, e⟩ | e := deadline_written hw
    · exact hstep d r f e
    · exact hreset e
  · obtain ⟨d, r, f, e⟩ | ⟨d, c, n, x, e⟩ := prio_written hw
    · exact hstep d r f e
    · exact hmeas d c n x e
  · have hlc : r.left.lc = s.lc := hkeeps.lc fun hw => by
      obtain e | e | e := lc_written hw
      · exact hopen e
      · exact hmap e
      · exact hrelease e
    rw [← hlc]
    exact complete_lc r

end Sys2Proof.Machine
end

section
/-! PROOFS. The statistics of a measurement: what the first pass and the second pass compute, that the second pass never meets an
empty side, and the bounds of the mean and the variance (spec/46_measurement.md R274 to R280). -/

namespace Sys2Proof.Machine

/-! ### The first pass -/

/-- Settles O55: the sums and extremes are those of the samples, and the test is the strict comparison itself. -/
theorem firstPassAndHomeTest : Obligations.FirstPassAndHomeTest := by
  rintro c st xs rfl hne
  refine ⟨_, rfl, sumCodes_eq _, sumSqCodes_eq _, minCode_mem hne, maxCode_mem hne, fun x hx => ⟨minCode_le hx, le_maxCode hx⟩,
    rfl, rfl, rfl, rfl, ?_, rfl, rfl, rfl, rfl, rfl, rfl⟩
  exact decide_eq_true_iff

/-! ### The vote and the second pass -/

/-- One side of the threshold, as the samples that meet its comparison (spec/46_measurement.md R276). -/
theorem sideOf_eq_filter (thresh : Nat) (above : Bool) (xs : List Code) :
    sideOf thresh above xs = xs.filter fun x => if above then thresh < x.toNat else x.toNat ≤ thresh := by
  cases above
  · rw [sideOf_below]; simp
  · rw [sideOf_above]; simp

section Majority

variable (c : Config) {st : Stats}

/-- The samples of the majority side of a vote. -/
abbrev majority (c : Config) (st : Stats) : List Code := sideOf c.threshCode (vote c st).measHigh (samples st)

/-- The majority side of a vote over at least one sample holds a sample (spec/46_measurement.md R278). -/
theorem majority_ne_nil (h : samples st ≠ []) : majority c st ≠ [] := by
  have hhalf : (samples st).length ≤ 2 * (majority c st).length := vote_majority c st
  have hsome := List.length_pos_iff.2 h
  exact List.length_pos_iff.1 (by omega)

/-- The second pass after a vote over at least one sample: the statistics of the majority side (spec/46_measurement.md R277). -/
theorem refilter_vote (h : samples st ≠ []) : refilter c (vote c st) = { vote c st with
    min := minCode (majority c st)
    max := maxCode (majority c st)
    sumNum := sumCodes (majority c st) * st.n
    sumsqNum := sumSqCodes (majority c st) * st.n
    used := (majority c st).length
    den := (majority c st).length } := refilter_some (majority_ne_nil c h)

end Majority

/-- Settles O56: the second pass takes the statistics of the majority side (`refilter_vote`), which is at least half of the
samples (`vote_majority`). -/
theorem voteAndRefilter : Obligations.VoteAndRefilter := by
  rintro c st xs rfl hne hlen
  have hsides := sideOf_lengths c.threshCode (samples st)
  refine ⟨_, refilter_vote c hne, ?_, ?_, ?_, decide_eq_true_iff, ?_⟩
  · exact congrArg List.length (sideOf_above c.threshCode (samples st))
  · exact congrArg List.length (sideOf_below c.threshCode (samples st))
  · exact hsides.trans hlen
  rintro side rfl
  have hside := sideOf_eq_filter c.threshCode (vote c st).measHigh (samples st)
  have hmajority := majority_ne_nil c hne
  have hhalf : st.n ≤ 2 * (majority c st).length := hlen.symm.le.trans (vote_majority c st)
  rw [majority, hside] at hmajority hhalf
  simp only [majority, hside, sumCodes_eq, sumSqCodes_eq]
  exact ⟨List.length_pos_iff.2 hmajority, rfl, rfl, hhalf, rfl, rfl, minCode_mem hmajority, maxCode_mem hmajority,
    fun x hx => ⟨minCode_le hx, le_maxCode hx⟩, rfl, rfl⟩

/-- Settles O57: an empty side is the guarded division, and the majority side is not empty. -/
theorem guardedDivision : Obligations.GuardedDivision :=
  ⟨fun _ _ hempty => refilter_none hempty, fun c _ hne => majority_ne_nil c hne⟩

/-! ### The mean and the variance -/

section Bounds

variable (xs : List Code) (n : Nat)

/-- The least sample is at most the mean, both times the number of samples and `n`. -/
theorem minCode_le_mean : (minCode xs).toNat * (xs.length * n) ≤ sumCodes xs * n := by
  rw [← Nat.mul_assoc]
  exact Nat.mul_le_mul_right n (mul_length_le_sumCodes fun _ => minCode_le)

/-- The mean is at most the greatest sample, both times the number of samples and `n`. -/
theorem mean_le_maxCode : sumCodes xs * n ≤ (maxCode xs).toNat * (xs.length * n) := by
  rw [← Nat.mul_assoc]
  exact Nat.mul_le_mul_right n (sumCodes_le_mul_length fun _ => le_maxCode)

/-- The variance is not negative, times the squares of the number of samples and `n`. -/
theorem variance_nonneg : sumCodes xs * n * (sumCodes xs * n) ≤ sumSqCodes xs * n * (xs.length * n) := by
  rw [Nat.mul_mul_mul_comm, Nat.mul_mul_mul_comm (sumSqCodes xs)]
  exact Nat.mul_le_mul_right (n * n) (sumCodes_sq_le xs)

end Bounds

/-- Not at home the statistics are those of the first pass, over all samples (spec/46_measurement.md R275). -/
theorem measuredStats_away {c : Config} {st : Stats} (h : (homeTest c (firstPass st)).atHome = false) :
    measuredStats c st = homeTest c (firstPass st) := if_neg (ne_true_of_eq_false h)

/-- At home they are those of the second pass, over the majority side (spec/46_measurement.md R276, R277). -/
theorem measuredStats_home {c : Config} {st : Stats} (h : (homeTest c (firstPass st)).atHome = true) :
    measuredStats c st = refilter c (vote c (homeTest c (firstPass st))) := if_pos h

/-- Settles O58: not at home the bounds are those of all N samples, at home those of the majority side, scaled by N. -/
theorem statisticsBounds : Obligations.StatisticsBounds := by
  intro c st hn hbuf
  have hlen : (samples st).length = st.n := List.length_take_of_le hbuf
  have hne : samples st ≠ [] := List.length_pos_iff.1 (by omega)
  refine ⟨_, rfl, ?_⟩
  cases hhome : (homeTest c (firstPass st)).atHome with
  | false =>
    have hmin := minCode_le_mean (samples st) 1
    have hmax := mean_le_maxCode (samples st) 1
    have hvar := variance_nonneg (samples st) 1
    simp only [hlen, Nat.mul_one] at hmin hmax hvar
    rw [measuredStats_away hhome]
    simp only [homeTest, firstPass, Nat.one_mul, and_true, implies_true]
    exact ⟨hn, hmin, hmax, hvar⟩
  | true =>
    have hside := majority_ne_nil c (st := homeTest c (firstPass st)) hne
    rw [measuredStats_home hhome, refilter_vote c (st := homeTest c (firstPass st)) hne]
    exact ⟨Nat.mul_pos (List.length_pos_iff.2 hside) hn, minCode_le_mean _ _, mean_le_maxCode _ _, variance_nonneg _ _,
      fun haway => absurd (hhome.symm.trans haway) Bool.noConfusion, rfl⟩

end Sys2Proof.Machine
end

section
/-! PROOFS. OMEASURE as a whole: its argument checks, the acquisition and then the analysis in one record, the eighteen value
words, and each fault with what it leaves (spec/46_measurement.md R271 to R280). -/

namespace Sys2Proof.Machine

/-! ### The argument checks -/

/-- N is refused when it is 0 or more than the buffer holds (spec/46_measurement.md R272). -/
theorem exec_omeasure_badCount {n : Word} {s : State} (h : n = 0 ∨ s.cfg.nmax < n.toNat) (d c : Field8) (x : Word) :
    exec (.omeasure d c n x) s = .next (answered [0x01030000#32] s) := by
  rw [exec, execOmeasure, checkMeasureArgs, if_pos h, andThen_rejected, finish_rejected, respond_badArg]

section Checks

variable {d c : Field8} {n x : Word} {s : State} (hn : n ≠ 0) (hmax : n.toNat ≤ s.cfg.nmax)

include hn hmax

/-- With N in range the device is checked, then the channel (spec/46_measurement.md R272). -/
theorem checkMeasureArgs_indices : checkMeasureArgs d c n s =
    (checkIndex d 2 s).andThen fun d s => (checkIndex c 12 s).andThen fun c s => .done (d, c) s :=
  if_neg (not_or.2 ⟨hn, not_lt.2 hmax⟩)

/-- A device out of range halts (spec/46_measurement.md R272, spec/60_exceptions.md R311). -/
theorem exec_omeasure_badDevice (hd : 2 ≤ d.toNat) :
    exec (.omeasure d c n x) s = .next (afterHalt (.invalidAddress d.toNat) s) := by
  rw [exec, execOmeasure, checkMeasureArgs_indices hn hmax, checkIndex_out hd, andThen_raised, andThen_raised, finish_raised,
    takeFault_halt rfl]
  rfl

/-- A channel out of range halts (spec/46_measurement.md R272, spec/60_exceptions.md R311). -/
theorem exec_omeasure_badChannel (hd : d.toNat < 2) (hc : 12 ≤ c.toNat) :
    exec (.omeasure d c n x) s = .next (afterHalt (.invalidAddress c.toNat) s) := by
  rw [exec, execOmeasure, checkMeasureArgs_indices hn hmax, checkIndex_in hd, andThen_done, checkIndex_out hc, andThen_raised,
    andThen_raised, finish_raised, takeFault_halt rfl]
  rfl

/-- With all arguments in range OMEASURE acquires and then analyses (spec/46_measurement.md R271). -/
theorem exec_omeasure (d : AdcDev) (c : AdcChan) : exec (.omeasure (BitVec.ofNat 8 d.val) (BitVec.ofNat 8 c.val) n x) s =
    finish ((acquire d c n.toNat x s).andThen fun _ t => analyse t) := by
  rw [exec, execOmeasure, checkMeasureArgs_indices hn hmax, checkIndex_fin (by decide), andThen_done, checkIndex_fin (by decide),
    andThen_done, andThen_done]

/-- An acquisition that faults without halting ends the operation in `DEVFAULT` (spec/46_measurement.md R280). -/
theorem exec_omeasure_faulted {d : AdcDev} {c : AdcChan} {f : Raised} {t : State}
    (h : acquire d c n.toNat x s = .raised f t) (hf : f.halts = false) :
    exec (.omeasure (BitVec.ofNat 8 d.val) (BitVec.ofNat 8 c.val) n x) s = .next (afterDeviceFault f t) := by
  rw [exec_omeasure hn hmax, h, andThen_raised, finish_deviceFault hf]

end Checks

/-! ### The analysis -/

/-- The visible actions of the analysis: its phases, the second pass only at home, and the yield (spec/46_measurement.md R271). -/
def analysisActions (atHome : Bool) : List Event :=
  [.phase .msPass1, .phase .msHome] ++ (if atHome then [.phase .msPass2] else []) ++ [.phase .msOut, .phase .msYield, .yielded]

/-- The analysis accesses and transfers nothing. -/
theorem analysisActions_quiet (atHome : Bool) : (analysisActions atHome).filter Event.isAccess = [] ∧
    (analysisActions atHome).filter (fun e => e.isAccess || e.isXfer) = [] := by cases atHome <;> exact ⟨rfl, rfl⟩

/-- What the analysis leaves (spec/46_measurement.md R271, R274 to R279). -/
def analysed (s : State) : State :=
  { s with
    st := measuredStats s.cfg s.st
    seq := .msYield
    prio := .normal
    trace := s.trace ++ analysisActions (homeTest s.cfg (firstPass s.st)).atHome }

theorem analyse_eq (s : State) : analyse s = .done (measureWords s.cfg (measuredStats s.cfg s.st)) (analysed s) := by
  cases hhome : (homeTest s.cfg (firstPass s.st)).atHome with
  | false =>
    simp [analyse, secondPass, analysed, analysisActions, measuredStats_away hhome, updateStats, enter, logEvent, release, yieldCpu,
      hhome]
  | true =>
    simp [analyse, secondPass, analysed, analysisActions, measuredStats_home hhome, updateStats, enter, logEvent, release, yieldCpu,
      hhome]

/-- The second pass, guarded or not, leaves the captured samples and their number as they were. -/
theorem refilter_captured (c : Config) (st : Stats) : (refilter c st).n = st.n ∧ (refilter c st).buf = st.buf := by
  by_cases h : sideOf c.threshCode st.measHigh (samples st) = []
  · rw [refilter_none h]; exact ⟨rfl, rfl⟩
  · rw [refilter_some h]; exact ⟨rfl, rfl⟩

/-- The analysis leaves the captured samples and their number as they were (spec/46_measurement.md R274 to R277). -/
theorem measuredStats_captured (c : Config) (st : Stats) : (measuredStats c st).n = st.n ∧ (measuredStats c st).buf = st.buf := by
  unfold measuredStats
  split
  · exact refilter_captured c _
  · exact ⟨rfl, rfl⟩

/-! ### The sums fit their words -/

/-- An upper bound of every sample bounds the sum of the squares. -/
theorem sumSqCodes_le_mul_length {xs : List Code} {b : Nat} (h : ∀ x ∈ xs, x.toNat ≤ b) :
    sumSqCodes xs ≤ b * b * xs.length := by
  induction xs with
  | nil => exact Nat.zero_le _
  | cons y xs ih =>
    have hy := Nat.mul_self_le_mul_self (h y List.mem_cons_self)
    have hxs := ih fun x hx => h x (List.mem_cons_of_mem y hx)
    rw [List.length_cons, Nat.mul_succ, sumSqCodes]
    omega

/-- Sums over at most 65535 samples, times at most 65535, fit 64 bits (spec/46_measurement.md R272). -/
theorem scaledSums_lt {xs : List Code} {n : Nat} (hxs : xs.length ≤ 65535) (hn : n ≤ 65535) :
    sumCodes xs * n < 2 ^ 64 ∧ sumSqCodes xs * n < 2 ^ 64 := by
  have hcode (x : Code) (_ : x ∈ xs) : x.toNat ≤ 65535 := Nat.le_of_lt_succ x.isLt
  constructor
  · calc sumCodes xs * n ≤ 65535 * 65535 * 65535 :=
        Nat.mul_le_mul ((sumCodes_le_mul_length hcode).trans (Nat.mul_le_mul_left _ hxs)) hn
      _ < 2 ^ 64 := by decide
  · calc sumSqCodes xs * n ≤ 65535 * 65535 * 65535 * 65535 :=
        Nat.mul_le_mul ((sumSqCodes_le_mul_length hcode).trans (Nat.mul_le_mul_left _ hxs)) hn
      _ < 2 ^ 64 := by decide

/-- Both sums of a measurement of at most 65535 samples fit 64 bits (spec/46_measurement.md R272). -/
theorem measuredSums_lt (c : Config) {st : Stats} (hne : samples st ≠ []) (hn : st.n ≤ 65535) :
    (measuredStats c st).sumNum < 2 ^ 64 ∧ (measuredStats c st).sumsqNum < 2 ^ 64 := by
  have hall : (samples st).length ≤ 65535 := (List.length_take_le _ _).trans hn
  cases hhome : (homeTest c (firstPass st)).atHome with
  | false =>
    have hsums := scaledSums_lt hall (n := 1) (by decide)
    rw [Nat.mul_one, Nat.mul_one] at hsums
    rw [measuredStats_away hhome]
    exact hsums
  | true =>
    have hside : (majority c (homeTest c (firstPass st))).length ≤ 65535 := (List.length_filter_le _ _).trans hall
    rw [measuredStats_home hhome, refilter_vote c (st := homeTest c (firstPass st)) hne]
    exact scaledSums_lt hside hn

/-! ### A run that meets no failing answer -/

theorem script_take_length {α : Type} (free : Nat → α) (n : Nat) (q : Script α) : (q.take free n).length = n := by
  induction n generalizing q with
  | zero => rfl
  | succ n ih => exact congrArg (· + 1) (ih q.tail)

/-- A measurement has N samples (spec/46_measurement.md R273). -/
theorem measuredSamples_length (n : Nat) (s : State) : (measuredSamples n s).length = n := by
  simp [measuredSamples, script_take_length]

/-- The bits of the flags word are disjoint, so their union is their sum (spec/46_measurement.md R279). -/
theorem flagsWord_eq (st : Stats) : flagsWord st =
    (if st.atHome then 1 else 0) + (if st.measHigh then 2 else 0) + (if st.undetermined then 4 else 0) := by
  rw [flagsWord]
  generalize st.atHome = home
  generalize st.measHigh = high
  generalize st.undetermined = undetermined
  revert home high undetermined
  decide

/-- The eighteen value words of a measurement of `n` samples, written out (spec/30_encoding.md R110). -/
theorem measureWords_eq {c : Config} {st : Stats} {n : Word} (h : st.n = n.toNat) : measureWords c st =
    [(if st.atHome then 1 else 0) + (if st.measHigh then 2 else 0) + (if st.undetermined then 4 else 0), n,
        BitVec.ofNat 32 st.used, BitVec.ofNat 32 st.min.toNat, BitVec.ofNat 32 st.max.toNat, BitVec.ofNat 32 st.den]
      ++ words64 (BitVec.ofNat 64 st.sumNum) ++ words64 (BitVec.ofNat 64 st.sumsqNum)
      ++ words64 (roundBinary64 (st.sumNum * c.fullScaleUv) (st.den * n.toNat * voltDen c))
      ++ words64 (roundSqrtBinary64
        ((st.sumsqNum * (st.den * n.toNat) - st.sumNum * st.sumNum) * (c.fullScaleUv * c.fullScaleUv))
        (st.den * n.toNat * voltDen c * (st.den * n.toNat * voltDen c)))
      ++ words64 (roundBinary64 (st.min.toNat * c.fullScaleUv) (voltDen c))
      ++ words64 (roundBinary64 (st.max.toNat * c.fullScaleUv) (voltDen c)) := by
  rw [measureWords, flagsWord_eq, meanVolt, stdVolt, varNum, h, BitVec.ofNat_toNat, BitVec.ofNat_toNat, BitVec.ofNat_toNat,
    BitVec.setWidth_eq]
  rfl

/-- The line levels after both mux lines were written, SEL2 after SEL1 (spec/46_measurement.md R273). -/
theorem lineBit_muxed (r : Vector Word 6) (g₁ g₂ h : Line) (v₁ v₂ : Bool) :
    lineBit (rmwFile (rmwFile r g₁ v₁) g₂ v₂) h = if h = g₂ then v₂ else if h = g₁ then v₁ else lineBit r h := by
  rw [lineBit_rmwFile, lineBit_rmwFile]

section Granted

variable {s : State} {n : Word} (hm : s.lc = .mapped) (hc : s.spi.cfg = .configured) (hn : n ≠ 0) (hmax : n.toNat ≤ s.cfg.nmax)
  (ha : accessesGranted 4 s) (hx : xfersGranted (n.toNat + 3) s)

include hm hc hn hmax ha hx

/-- OMEASURE with every answer favourable: the acquisition, then the analysis, then the eighteen words (spec/46_measurement.md
R271). -/
theorem exec_omeasure_granted (d : AdcDev) (c : AdcChan) (x : Word) : ∃ u, Acquired d c n.toNat s u ∧
    exec (.omeasure (BitVec.ofNat 8 d.val) (BitVec.ofNat 8 c.val) n x) s =
      .next (answered (0x00000000#32 :: measureWords u.cfg (measuredStats u.cfg u.st)) (analysed u)) := by
  obtain ⟨u, hu, hacquired⟩ := acquire_granted d c n.toNat x hm hc ha hx
  refine ⟨u, hacquired, ?_⟩
  rw [exec_omeasure hn hmax, hu, andThen_done, analyse_eq, finish_done, respond_ok]

end Granted

/-- Settles O54: the acquisition makes the accesses and transfers, the analysis none. -/
theorem measurementWordSequence : Obligations.MeasurementWordSequence := by
  intro s d c n x hm hc hn hmax ha hx
  obtain ⟨u, hacquired, hexec⟩ := exec_omeasure_granted hm hc hn hmax ha hx d c x
  obtain ⟨evs, htrace, haccesses, hxfers⟩ := hacquired.events
  obtain ⟨hquiet, hquiet'⟩ := analysisActions_quiet (homeTest u.cfg (firstPass u.st)).atHome
  refine ⟨_, evs ++ analysisActions (homeTest u.cfg (firstPass u.st)).atHome, hexec, ?_, ?_, ?_⟩
  · rw [← List.append_assoc, ← htrace]
    rfl
  · rw [List.filter_append, hquiet, List.append_nil, haccesses]
  · rw [List.filter_append, hquiet', List.append_nil, hxfers]

/-- The statistics engine when the last sample is stored (spec/46_measurement.md R271). -/
abbrev capturedStats (d : AdcDev) (c : AdcChan) (n : Nat) (s : State) : Stats :=
  { s.st with n := n, dev := d, chan := c, buf := measuredSamples n s ++ s.st.buf.drop n }

/-- The samples of a measurement are the first N entries of the buffer. -/
theorem samples_capturedStats (d : AdcDev) (c : AdcChan) (n : Nat) (s : State) :
    samples (capturedStats d c n s) = measuredSamples n s := List.take_left' (measuredSamples_length n s)

/-- Settles O52: the acquisition leaves the record `Acquired` names, with the samples in the buffer, and the analysis adds the
statistics of those samples. -/
theorem omeasure : Obligations.Omeasure := by
  refine ⟨fun d c n x => ofFields_eq .., fun s d c n x hm hc hn hmax hsel ha hx => ?_⟩
  obtain ⟨u, hacquired, hexec⟩ := exec_omeasure_granted hm hc hn hmax ha hx d c x
  have hu := hacquired.eq
  generalize u.seq = seq, u.prio = prio, u.trace = trace at hu
  subst hu
  have hsome : samples (capturedStats d c n.toNat s) ≠ [] := by
    rw [samples_capturedStats, ← List.length_pos_iff, measuredSamples_length]
    exact Nat.pos_of_ne_zero fun h0 => hn (BitVec.eq_of_toNat_eq h0)
  obtain ⟨hcount, hbuf⟩ := measuredStats_captured s.cfg (capturedStats d c n.toNat s)
  refine ⟨_, measuredStats s.cfg (capturedStats d c n.toNat s), hexec, fun h => ?_, rfl, measuredSamples_length _ _, hbuf,
    fun hmax' => measuredSums_lt s.cfg hsome (hmax.trans hmax'), ?_⟩
  · exact (congrArg (lineBit · h) (rmwFile_comm hsel s.dout _ _)).trans (lineBit_muxed s.dout _ _ h _ _)
  · simp only [later_cfg, measureWords_eq hcount]
    rfl

/-! ### The faults of the acquisition -/

/-- The mux lines of banks that are not mapped: no access (spec/46_measurement.md R280). -/
theorem acquire_unmapped {s : State} (hm : s.lc ≠ .mapped) (d : AdcDev) (c : AdcChan) (n : Nat) (x : Word) :
    acquire d c n x s = .raised (.resourceAbsent .gpio) (measureStarted d c n s) := by
  simp only [acquire]
  rw [measureStarted_eq, selectDevice, writeLevel, requireMapped_unmapped (s := measureStarted d c n s) hm, andThen_raised,
    andThen_raised, andThen_raised]

/-- A bus that is not configured, found at the first transfer, after the mux lines were written (spec/46_measurement.md R280). -/
theorem acquire_unconfigured {s : State} (hm : s.lc = .mapped) (hc : s.spi.cfg ≠ .configured) (ha : accessesGranted 4 s)
    (d : AdcDev) (c : AdcChan) (n : Nat) (x : Word) : acquire d c n x s =
      .raised (.resourceAbsent .spi) (enter .msInit (muxed d (measureStarted d c n s))) := by
  have hbus (w : Word) := spiXfer_unconfigured (s := enter .msInit (muxed d (measureStarted d c n s))) hc w
  simp only [acquire]
  rw [measureStarted_eq, selectDevice_granted (s := measureStarted d c n s) hm ha, andThen_done, hbus, andThen_raised]

/-- What is left when the mux access number `k` is the first refused: SEL1 is written if that access was SEL2's
(spec/46_measurement.md R273, R280). -/
def muxRefused (d : AdcDev) (k : Nat) (s : State) : State :=
  if k < 2 then rmwRefused .dout s.sig.adcSel1 k s
  else rmwRefused .dout s.sig.adcSel2 (k - 2) (rmwDone .dout s.sig.adcSel1 (s.cfg.adcMuxCode.get d).1 s)

/-- The selection line whose register the mux access number `k` is made to (spec/46_measurement.md R273). -/
def muxLine (s : State) (k : Nat) : Line := if k < 2 then s.sig.adcSel1 else s.sig.adcSel2

theorem acquire_mux_refused {s : State} {k : Nat} (hm : s.lc = .mapped) (hk : k < 4) (h : accessesGranted k s)
    (hn : ¬ accessesGranted (k + 1) s) (d : AdcDev) (c : AdcChan) (n : Nat) (x : Word) : acquire d c n x s =
      .raised (.deviceIo (.register (regAddr s.cfg (bankOf (muxLine s k)) .dout))) (muxRefused d k (measureStarted d c n s)) := by
  have hselect := selectDevice_refused (dev := d) (s := measureStarted d c n s) hm hk h hn
  simp only [acquire]
  rw [measureStarted_eq, hselect, muxRefused, muxLine]
  split <;> rfl

/-- A refused mux access changes data-out only by the line written before it, and takes `k + 1` accesses. -/
theorem muxRefused_eq (d : AdcDev) (k : Nat) (s : State) : muxRefused d k s = { accessed (k + 1) s with
    dout := if k < 2 then s.dout else rmwFile s.dout s.sig.adcSel1 (s.cfg.adcMuxCode.get d).1
    trace := (muxRefused d k s).trace } := by
  by_cases hk : k < 2
  · simp only [muxRefused, if_pos hk]
    rfl
  · obtain ⟨j, rfl⟩ := Nat.exists_eq_add_of_le (not_lt.1 hk)
    simp only [muxRefused, if_neg hk]
    rw [Nat.add_sub_cancel_left, Nat.add_assoc, ← accessed_accessed]
    rfl

/-- Settles O53: each check and each fault of the acquisition ends the operation with the state its lemma names. -/
theorem omeasureChecks : Obligations.OmeasureChecks := by
  refine ⟨fun s d c n x => ⟨fun hn => exec_omeasure_badCount hn d c x, fun hn hmax hd => ⟨_, exec_omeasure_badDevice hn hmax hd, rfl⟩,
    fun hn hmax hd hc => ⟨_, exec_omeasure_badChannel hn hmax hd hc, rfl⟩⟩, ?_⟩
  intro s d c n x hn hmax op g1 g2 code begun
  refine ⟨fun hm => ?_, fun k hk hm h hrefused => ?_, fun hm hc ha => ?_, fun k hk hm hc ha h hrefused => ?_⟩
  · exact ⟨_, exec_omeasure_faulted hn hmax (acquire_unmapped hm d c n.toNat x) rfl, rfl⟩
  · refine ⟨_, exec_omeasure_faulted hn hmax (acquire_mux_refused hm hk h hrefused d c n.toNat x) rfl, ?_, ?_⟩
    · rw [muxRefused_eq]
      intro h
      change lineBit (if k < 2 then s.dout else rmwFile s.dout g1 code.1) h = _
      by_cases hk2 : k < 2
      · rw [if_pos hk2, if_neg fun hh => absurd hh.2 (not_le.2 hk2)]
      · rw [if_neg hk2, lineBit_rmwFile]
        simp only [not_lt.1 hk2, and_true]
    · rw [muxRefused_eq]
      rfl
  · refine ⟨_, exec_omeasure_faulted hn hmax (acquire_unconfigured hm hc ha d c n.toNat x) rfl,
      fun h => lineBit_muxed s.dout g1 g2 h code.1 code.2, ?_⟩
    rw [← accessed_accessed 2 2]
    rfl
  · obtain ⟨u, hu, hleft⟩ := acquire_refused d c n.toNat x hm hc ha hk h hrefused
    have heq := hleft.eq
    generalize u.seq = seq, u.prio = prio, u.trace = trace at heq
    subst heq
    exact ⟨_, exec_omeasure_faulted hn hmax hu rfl, fun h => lineBit_muxed s.dout g1 g2 h code.1 code.2, rfl⟩

end Sys2Proof.Machine
end

section
/-! PROOFS. Rounding to binary64: the pattern packed from a significand nearest to the scaled number, ties to even, is a finite
binary64 nearest to the number, ties to even; and both roundings of the model pack such a significand (spec/43_adc_codec.md R207,
spec/46_measurement.md R279, log 18). -/

namespace Sys2Proof.Machine

/-! ### What rounding means -/

/-- `m` is a natural number nearest to `y`, the even one of two. -/
structure NearestEven (m : ℕ) (y : ℝ) : Prop where
  near : |(m : ℝ) - y| ≤ 1 / 2
  even : |(m : ℝ) - y| = 1 / 2 → m % 2 = 0

/-- `r` is the pattern of a finite binary64 nearest to `x`; of two, the one with an even significand. -/
def RoundsTo (r : BitVec 64) (x : ℝ) : Prop :=
  isFinite64 r ∧ ∀ b : BitVec 64, isFinite64 b →
    |(value64 r : ℝ) - x| ≤ |(value64 b : ℝ) - x| ∧
    (b ≠ r → |(value64 r : ℝ) - x| = |(value64 b : ℝ) - x| → r.getLsbD 0 = false)

namespace NearestEven

variable {m k : ℕ} {y : ℝ}

/-- Another natural number is at least as far away as half the unit. -/
theorem half_le (h : NearestEven m y) (hk : k ≠ m) : 1 / 2 ≤ |(k : ℝ) - y| := by
  have hunit : (1 : ℝ) ≤ |(k : ℝ) - m| := by
    have : (1 : ℤ) ≤ |(k : ℤ) - m| := Int.one_le_abs (sub_ne_zero.2 (Nat.cast_injective.ne hk))
    exact_mod_cast this
  have htriangle := abs_sub_le (k : ℝ) y m
  rw [abs_sub_comm y] at htriangle
  linarith [h.near]

theorem le (h : NearestEven m y) (k : ℕ) : |(m : ℝ) - y| ≤ |(k : ℝ) - y| := by
  by_cases hk : k = m
  · rw [hk]
  · exact h.near.trans (h.half_le hk)

theorem even_of_eq (h : NearestEven m y) (hk : k ≠ m) (heq : |(m : ℝ) - y| = |(k : ℝ) - y|) : m % 2 = 0 :=
  h.even (le_antisymm h.near (heq ▸ h.half_le hk))

/-- A bound of `y` bounds the nearest natural number. -/
theorem le_of_le (h : NearestEven m y) (hy : y ≤ k) : m ≤ k := by
  have hnear := (abs_le.1 h.near).2
  have : (m : ℝ) < k + 1 := by linarith
  exact Nat.le_of_lt_succ (by exact_mod_cast this)

theorem ge_of_ge (h : NearestEven m y) (hy : (k : ℝ) ≤ y) : k ≤ m := by
  have hnear := (abs_le.1 h.near).1
  have : (k : ℝ) < m + 1 := by linarith
  exact Nat.le_of_lt_succ (by exact_mod_cast this)

/-- Rounding to nearest, ties to even, of a number between `m` and `m + 1`, its side of the middle told by comparing `a` and
`b`. -/
theorem of_floor {a b : ℕ} (hlo : (m : ℝ) ≤ y) (hhi : y ≤ m + 1) (hbelow : a < b ↔ y < m + 1 / 2)
    (habove : b < a ↔ (m : ℝ) + 1 / 2 < y) : NearestEven (if a < b then m else if b < a then m + 1 else m + m % 2) y := by
  split_ifs with h₁ h₂
  · have hy := hbelow.1 h₁
    have hdist : |(m : ℝ) - y| < 1 / 2 := by rw [abs_lt]; constructor <;> linarith
    exact ⟨hdist.le, fun he => absurd he hdist.ne⟩
  · have hy := habove.1 h₂
    have hdist : |((m + 1 : ℕ) : ℝ) - y| < 1 / 2 := by push_cast; rw [abs_lt]; constructor <;> linarith
    exact ⟨hdist.le, fun he => absurd he hdist.ne⟩
  · have hy : y = m + 1 / 2 := le_antisymm (not_lt.1 fun h => h₂ (habove.2 h)) (not_lt.1 fun h => h₁ (hbelow.2 h))
    refine ⟨?_, fun _ => by omega⟩
    subst hy
    obtain hm | hm := Nat.mod_two_eq_zero_or_one m <;> rw [hm] <;> push_cast <;> rw [abs_le] <;> constructor <;> linarith

end NearestEven

/-! ### The binary64 patterns -/

/-- The significand of a pattern, its leading bit included. -/
def significand64 (b : BitVec 64) : ℕ := if b.toNat / 2 ^ 52 = 0 then b.toNat % 2 ^ 52 else 2 ^ 52 + b.toNat % 2 ^ 52

/-- The place of the last bit of a pattern's significand, counted from the least place of all. -/
def place64 (b : BitVec 64) : ℕ := b.toNat / 2 ^ 52 - 1

theorem significand64_lt (b : BitVec 64) : significand64 b < 2 ^ 53 := by
  unfold significand64
  split <;> omega

/-- Above the least place the significand has its leading bit. -/
theorem le_significand64 {b : BitVec 64} (h : 0 < place64 b) : 2 ^ 52 ≤ significand64 b := by
  unfold significand64 place64 at *
  split <;> omega

/-- A pattern is made of its place and its significand. -/
theorem toNat_eq_place64 (b : BitVec 64) : b.toNat = place64 b * 2 ^ 52 + significand64 b := by
  unfold significand64 place64
  split <;> omega

/-- The number a pattern stands for, by its significand and place. -/
theorem value64_eq (b : BitVec 64) : (value64 b : ℝ) = significand64 b * 2 ^ ((place64 b : ℤ) - 1074) := by
  unfold value64 significand64 place64
  split_ifs with h
  · rw [h, Nat.zero_sub, Nat.cast_zero, zero_sub, Rat.cast_mul, Rat.cast_natCast, Rat.cast_zpow, Rat.cast_ofNat]
  · rw [Nat.cast_sub (Nat.one_le_iff_ne_zero.2 h), Nat.cast_one, sub_sub]
    push_cast
    rfl

/-- A significand with its leading bit, or at the least place, is that of the pattern made of it. -/
theorem parts_of_toNat_eq {b : BitVec 64} {p m : ℕ} (hb : b.toNat = p * 2 ^ 52 + m) (hm : m < 2 ^ 53) (hp : 0 < p → 2 ^ 52 ≤ m) :
    significand64 b = m ∧ place64 b = p := by
  unfold significand64 place64
  split <;> omega

/-- The value of a pattern made of a place and a significand of at most `2 ^ 53`. -/
theorem value64_of_toNat_eq {b : BitVec 64} {p m : ℕ} (hb : b.toNat = p * 2 ^ 52 + m) (hm : m ≤ 2 ^ 53)
    (hp : 0 < p → 2 ^ 52 ≤ m) : (value64 b : ℝ) = m * 2 ^ ((p : ℤ) - 1074) := by
  rw [value64_eq]
  obtain hlt | rfl := hm.lt_or_eq
  · obtain ⟨h₁, h₂⟩ := parts_of_toNat_eq hb hlt hp
    rw [h₁, h₂]
  · have hb' : b.toNat = (p + 1) * 2 ^ 52 + 2 ^ 52 := by rw [hb]; ring
    obtain ⟨h₁, h₂⟩ := parts_of_toNat_eq hb' (Nat.pow_lt_pow_right one_lt_two (by decide)) fun _ => le_rfl
    rw [h₁, h₂, Nat.cast_add, Nat.cast_one, add_sub_right_comm, zpow_add_one₀ two_ne_zero]
    push_cast
    ring

/-- A place `d` places higher is `2 ^ d` units of the lower one. -/
theorem two_zpow_add (q : ℤ) (d : ℕ) : (2 : ℝ) ^ (q + d) = 2 ^ d * 2 ^ q := by
  rw [zpow_add₀ two_ne_zero, zpow_natCast, mul_comm]

/-- At a place no lower than `p` a pattern's value is a whole number of units of `p`. -/
theorem value64_on_grid {b : BitVec 64} {p : ℕ} (h : p ≤ place64 b) : ∃ k : ℕ, (value64 b : ℝ) = k * 2 ^ ((p : ℤ) - 1074) := by
  obtain ⟨d, hd⟩ := Nat.exists_eq_add_of_le h
  refine ⟨significand64 b * 2 ^ d, ?_⟩
  rw [value64_eq, hd, Nat.cast_add, add_sub_right_comm, two_zpow_add]
  push_cast
  ring

/-- At a lower place it is less than `2 ^ 52` units of `p`. -/
theorem value64_below_grid {b : BitVec 64} {p : ℕ} (h : place64 b < p) : (value64 b : ℝ) < 2 ^ 52 * 2 ^ ((p : ℤ) - 1074) := by
  obtain ⟨d, rfl⟩ := Nat.exists_eq_add_of_lt h
  have hunit : (0 : ℝ) < 2 ^ ((place64 b : ℤ) - 1074) := zpow_pos two_pos _
  have hsig : (significand64 b : ℝ) < 2 ^ 53 := by exact_mod_cast significand64_lt b
  have hscale : ((place64 b + d + 1 : ℕ) : ℤ) - 1074 = (place64 b : ℤ) - 1074 + (d + 1 : ℕ) := by push_cast; ring
  have hpow : (2 : ℝ) ≤ 2 ^ (d + 1) := le_self_pow₀ one_le_two (Nat.succ_ne_zero d)
  rw [value64_eq, hscale, two_zpow_add, ← mul_assoc]
  refine mul_lt_mul_of_pos_right (hsig.trans_le ?_) hunit
  linarith

/-- Different patterns stand for different numbers. -/
theorem value64_injective {a b : BitVec 64} (h : (value64 a : ℝ) = value64 b) : a = b := by
  have hle {a b : BitVec 64} (h : (value64 a : ℝ) = value64 b) : place64 b ≤ place64 a := by
    by_contra hlt
    have hbelow := value64_below_grid (not_le.1 hlt)
    have hlead : (2 : ℝ) ^ 52 ≤ significand64 b := by exact_mod_cast le_significand64 (Nat.zero_lt_of_lt (not_le.1 hlt))
    rw [h, value64_eq] at hbelow
    exact absurd (lt_of_mul_lt_mul_right hbelow (zpow_pos two_pos _).le) (not_lt.2 hlead)
  have hplace : place64 a = place64 b := le_antisymm (hle h.symm) (hle h)
  rw [value64_eq, value64_eq, hplace] at h
  have hsig : significand64 a = significand64 b :=
    Nat.cast_injective (mul_right_cancel₀ (zpow_ne_zero _ two_ne_zero) h)
  exact BitVec.eq_of_toNat_eq (by rw [toNat_eq_place64 a, toNat_eq_place64 b, hplace, hsig])

/-! ### Packing -/

/-- Below the greatest binary64 packing adds up the place and the significand. -/
theorem toNat_packBinary64 {m p : ℕ} (hm : m ≤ 2 ^ 53) (hp : p ≤ 2044) :
    (packBinary64 m ((p : ℤ) - 1074)).toNat = p * 2 ^ 52 + m := by
  rw [packBinary64, sub_add_cancel, Int.toNat_natCast, BitVec.toNat_ofNat, Nat.min_eq_left (by omega)]
  exact Nat.mod_eq_of_lt (by omega)

/-- A pattern made of an even number of units ends in a 0 bit. -/
theorem getLsbD_zero_of_even {r : BitVec 64} {p m : ℕ} (hr : r.toNat = p * 2 ^ 52 + m) (hm : m % 2 = 0) :
    r.getLsbD 0 = false := by
  rw [BitVec.getLsbD, hr, Nat.testBit_zero]
  exact decide_eq_false (by omega)

/-- A distance counted in units. -/
theorem abs_units_sub {u : ℝ} (hu : 0 < u) (k x : ℝ) : |k * u - x| = |k - x / u| * u := by
  rw [← abs_of_pos hu, ← abs_mul, abs_of_pos hu, sub_mul, div_mul_cancel₀ x hu.ne']

/-- A pattern whose significand is nearest to the scaled number, ties to even, is nearest to the number, ties to even: the
patterns at its place and above are on the grid of its units, and those below are under all of the number's binade. -/
theorem roundsTo_packBinary64 {x : ℝ} {m p : ℕ} (hp : p ≤ 2044) (hm : NearestEven m (x / 2 ^ ((p : ℤ) - 1074)))
    (hhi : x / 2 ^ ((p : ℤ) - 1074) ≤ 2 ^ 53) (hlo : 0 < p → 2 ^ 52 ≤ x / 2 ^ ((p : ℤ) - 1074)) :
    RoundsTo (packBinary64 m ((p : ℤ) - 1074)) x := by
  have hm₁ : m ≤ 2 ^ 53 := hm.le_of_le (by exact_mod_cast hhi)
  have hm₂ : 0 < p → 2 ^ 52 ≤ m := fun h => hm.ge_of_ge (by exact_mod_cast hlo h)
  have hnat := toNat_packBinary64 hm₁ hp
  have hvalue := value64_of_toNat_eq hnat hm₁ hm₂
  have hu : (0 : ℝ) < 2 ^ ((p : ℤ) - 1074) := zpow_pos two_pos _
  refine ⟨by unfold isFinite64; omega, fun b _ => ?_⟩
  rw [hvalue, abs_units_sub hu]
  by_cases hb : p ≤ place64 b
  · obtain ⟨k, hk⟩ := value64_on_grid hb
    rw [hk, abs_units_sub hu]
    refine ⟨mul_le_mul_of_nonneg_right (hm.le k) hu.le, fun hne heq => getLsbD_zero_of_even hnat ?_⟩
    refine hm.even_of_eq (fun hkm => hne (value64_injective ?_)) (mul_right_cancel₀ hu.ne' heq)
    rw [hk, hvalue, hkm]
  · have hbelow := value64_below_grid (not_le.1 hb)
    have hbinade := hlo (Nat.zero_lt_of_lt (not_le.1 hb))
    have hunder : (2 : ℝ) ^ 52 * 2 ^ ((p : ℤ) - 1074) ≤ x := (le_div_iff₀ hu).1 hbinade
    have hlt := calc |(m : ℝ) - x / 2 ^ ((p : ℤ) - 1074)| * 2 ^ ((p : ℤ) - 1074)
          ≤ |((2 ^ 52 : ℕ) : ℝ) - x / 2 ^ ((p : ℤ) - 1074)| * 2 ^ ((p : ℤ) - 1074) :=
            mul_le_mul_of_nonneg_right (hm.le (2 ^ 52)) hu.le
        _ = x - 2 ^ 52 * 2 ^ ((p : ℤ) - 1074) := by
            rw [← abs_units_sub hu, Nat.cast_pow, Nat.cast_ofNat, abs_of_nonpos (sub_nonpos.2 hunder), neg_sub]
        _ < x - value64 b := sub_lt_sub_left hbelow x
        _ ≤ |(value64 b : ℝ) - x| := by rw [← neg_sub]; exact neg_le_abs _
    exact ⟨hlt.le, fun _ heq => absurd heq hlt.ne⟩

/-- Rounding at the last place of a number's binade, up to the greatest binary64. -/
theorem roundsTo_of_binade {x : ℝ} {e : ℤ} {m : ℕ} (hlo : 2 ^ e ≤ x) (hhi : x < 2 ^ (e + 1)) (hx : x < 2 ^ (1023 : ℤ))
    (hm : NearestEven m (x / 2 ^ lastBit e)) : RoundsTo (packBinary64 m (lastBit e)) x := by
  have he : e < 1023 := (zpow_lt_zpow_iff_right₀ one_lt_two).1 (hlo.trans_lt hx)
  obtain ⟨p, hp⟩ : ∃ p : ℕ, lastBit e = (p : ℤ) - 1074 :=
    ⟨(lastBit e + 1074).toNat, by unfold lastBit; omega⟩
  rw [hp] at hm ⊢
  have hu : (0 : ℝ) < 2 ^ ((p : ℤ) - 1074) := zpow_pos two_pos _
  unfold lastBit at hp
  refine roundsTo_packBinary64 (by omega) hm ((div_le_iff₀ hu).2 ?_) fun hpos => (le_div_iff₀ hu).2 ?_
  · rw [← zpow_natCast, ← zpow_add₀ two_ne_zero]
    exact hhi.le.trans (zpow_le_zpow_right₀ one_le_two (by push_cast; omega))
  · rw [← zpow_natCast, ← zpow_add₀ two_ne_zero]
    exact (zpow_le_zpow_right₀ one_le_two (by push_cast; omega)).trans hlo

/-- The zero pattern is exact. -/
theorem roundsTo_zero : RoundsTo 0 0 := by
  have hzero : (value64 0 : ℝ) = 0 := by rw [value64_eq]; simp [significand64]
  refine ⟨by unfold isFinite64; decide, fun b _ => ?_⟩
  rw [hzero, sub_zero, abs_zero]
  exact ⟨abs_nonneg _, fun _ _ => rfl⟩

/-! ### The scaled fraction and its binade -/

/-- The scaled fraction is the fraction over `2 ^ q`. -/
theorem scaled_div (num den : ℕ) (q : ℤ) :
    (scaleNum num q : ℝ) / scaleDen den q = (num : ℝ) / den / 2 ^ q := by
  have hpow : (2 : ℝ) ^ q = 2 ^ q.toNat / 2 ^ (-q).toNat := by
    rw [← zpow_natCast, ← zpow_natCast, ← zpow_sub₀ two_ne_zero]
    congr 1
    omega
  rw [scaleNum, scaleDen, hpow]
  push_cast
  field_simp

theorem scaleDen_pos {den : ℕ} (h : 0 < den) (q : ℤ) : 0 < scaleDen den q := Nat.mul_pos h (Nat.two_pow_pos _)

/-- A positive natural number lies in the binade its bits tell. -/
theorem log2_binade {n : ℕ} (h : n ≠ 0) : (2 : ℝ) ^ (n.log2 : ℤ) ≤ n ∧ (n : ℝ) < 2 ^ ((n.log2 : ℤ) + 1) := by
  have hlo := Nat.log2_self_le h
  have hhi : n < 2 ^ (n.log2 + 1) := Nat.lt_log2_self
  constructor
  · exact_mod_cast hlo
  · exact_mod_cast hhi

/-- `ilog2` is the floor of the binary logarithm of a positive rational. -/
theorem ilog2_binade {num den : ℕ} (hnum : num ≠ 0) (hden : 0 < den) :
    (2 : ℝ) ^ ilog2 num den ≤ (num : ℝ) / den ∧ (num : ℝ) / den < 2 ^ (ilog2 num den + 1) := by
  obtain ⟨hn₁, hn₂⟩ := log2_binade hnum
  obtain ⟨hd₁, hd₂⟩ := log2_binade hden.ne'
  have hden' : (0 : ℝ) < den := Nat.cast_pos.2 hden
  have hfirst : scaleDen den (num.log2 - den.log2) ≤ scaleNum num (num.log2 - den.log2) ↔
      (2 : ℝ) ^ ((num.log2 : ℤ) - den.log2) ≤ (num : ℝ) / den := by
    have hpos : (0 : ℝ) < scaleDen den (num.log2 - den.log2) := Nat.cast_pos.2 (scaleDen_pos hden _)
    rw [← Nat.cast_le (α := ℝ), ← one_le_div hpos, scaled_div, one_le_div (zpow_pos two_pos _)]
  have hupper : (num : ℝ) / den < 2 ^ ((num.log2 : ℤ) - den.log2 + 1) := by
    rw [div_lt_iff₀ hden', sub_add_eq_add_sub, zpow_sub₀ two_ne_zero, div_mul_eq_mul_div, lt_div_iff₀ (zpow_pos two_pos _)]
    exact mul_lt_mul hn₂ hd₁ (zpow_pos two_pos _) (zpow_pos two_pos _).le
  have hlower : (2 : ℝ) ^ ((num.log2 : ℤ) - den.log2 - 1) ≤ (num : ℝ) / den := by
    rw [le_div_iff₀ hden', sub_sub, zpow_sub₀ two_ne_zero, div_mul_eq_mul_div, div_le_iff₀ (zpow_pos two_pos _)]
    exact mul_le_mul hn₁ hd₂.le hden'.le (Nat.cast_nonneg _)
  unfold ilog2
  dsimp only
  split_ifs with h
  · exact ⟨hfirst.1 h, hupper⟩
  · rw [sub_add_cancel]
    exact ⟨hlower, not_le.1 (mt hfirst.2 h)⟩

/-! ### The two roundings of a scaled fraction -/

/-- `roundHalfEven` rounds a fraction to nearest, ties to even. -/
theorem nearestEven_roundHalfEven (num : ℕ) {den : ℕ} (hden : 0 < den) :
    NearestEven (roundHalfEven num den) ((num : ℝ) / den) := by
  have hden' : (0 : ℝ) < den := Nat.cast_pos.2 hden
  have hnum : (num : ℝ) = den * (num / den : ℕ) + (num % den : ℕ) := by exact_mod_cast (Nat.div_add_mod num den).symm
  have hrem : ((num % den : ℕ) : ℝ) < den := Nat.cast_lt.2 (Nat.mod_lt num hden)
  have hrem' : (0 : ℝ) ≤ (num % den : ℕ) := Nat.cast_nonneg _
  refine NearestEven.of_floor ?_ ?_ ?_ ?_
  · rw [le_div_iff₀ hden']; linarith
  · rw [div_le_iff₀ hden']; linarith
  · rw [div_lt_iff₀ hden', ← Nat.cast_lt (α := ℝ)]
    push_cast
    constructor <;> intro h <;> linarith
  · rw [lt_div_iff₀ hden', ← Nat.cast_lt (α := ℝ)]
    push_cast
    constructor <;> intro h <;> linarith

/-- The bits chosen one by one give the integer square root. -/
theorem isqrtBits_sq (n k acc : ℕ) (hlo : acc * acc ≤ n) (hhi : n < (acc + 2 ^ k) * (acc + 2 ^ k)) :
    isqrtBits n k acc * isqrtBits n k acc ≤ n ∧ n < (isqrtBits n k acc + 1) * (isqrtBits n k acc + 1) := by
  induction k generalizing acc with
  | zero => exact ⟨hlo, hhi⟩
  | succ k ih =>
    rw [isqrtBits]
    split_ifs with h
    · refine ih (acc + 2 ^ k) h ?_
      rwa [add_assoc, ← two_mul, ← pow_succ']
    · exact ih acc hlo (not_le.1 h)

theorem isqrt_sq (n : ℕ) : isqrt n * isqrt n ≤ n ∧ n < (isqrt n + 1) * (isqrt n + 1) := by
  refine isqrtBits_sq n _ 0 (Nat.zero_le n) ?_
  have hlog : n < 2 ^ (n.log2 + 1) := Nat.lt_log2_self
  rw [zero_add, ← pow_add]
  exact hlog.trans_le (Nat.pow_le_pow_right two_pos (by omega))

/-- `roundSqrt` rounds the square root of a fraction to nearest, ties to even. -/
theorem nearestEven_roundSqrt (num : ℕ) {den : ℕ} (hden : 0 < den) :
    NearestEven (roundSqrt num den) (Real.sqrt ((num : ℝ) / den)) := by
  obtain ⟨hlo, hhi⟩ := isqrt_sq (num / den)
  have hden' : (0 : ℝ) < den := Nat.cast_pos.2 hden
  have hlo' := (Nat.le_div_iff_mul_le hden).1 hlo
  have hhi' := (Nat.div_lt_iff_lt_mul hden).1 hhi
  rw [← Nat.cast_le (α := ℝ)] at hlo'
  rw [← Nat.cast_lt (α := ℝ)] at hhi'
  unfold roundSqrt
  dsimp only
  generalize isqrt (num / den) = m at *
  have hm : (0 : ℝ) ≤ m := Nat.cast_nonneg m
  push_cast at hlo' hhi'
  refine NearestEven.of_floor ?_ ?_ ?_ ?_
  · exact Real.le_sqrt_of_sq_le ((le_div_iff₀ hden').2 (by linarith))
  · rw [Real.sqrt_le_left (by linarith), div_le_iff₀ hden']; linarith
  · rw [Real.sqrt_lt' (by linarith), div_lt_iff₀ hden', ← Nat.cast_lt (α := ℝ)]
    push_cast
    constructor <;> intro h <;> linarith
  · rw [Real.lt_sqrt (by linarith), lt_div_iff₀ hden', ← Nat.cast_lt (α := ℝ)]
    push_cast
    constructor <;> intro h <;> linarith

/-! ### The two roundings of a number -/

/-- `round_binary64` of a rational below `2 ^ 1023` (spec/43_adc_codec.md R207). -/
theorem roundsTo_roundBinary64 {num den : ℕ} (hden : 0 < den) (hlt : num < den * 2 ^ 1023) :
    RoundsTo (roundBinary64 num den) ((num : ℝ) / den) := by
  unfold roundBinary64
  split_ifs with h
  · rw [h, Nat.cast_zero, zero_div]
    exact roundsTo_zero
  · obtain ⟨hlo, hhi⟩ := ilog2_binade h hden
    refine roundsTo_of_binade hlo hhi ?_ ?_
    · rw [div_lt_iff₀' (Nat.cast_pos.2 hden), zpow_ofNat]
      rwa [← Nat.cast_lt (α := ℝ), Nat.cast_mul, Nat.cast_pow, Nat.cast_ofNat] at hlt
    · rw [← scaled_div]
      exact nearestEven_roundHalfEven _ (scaleDen_pos hden _)

/-- The square root of a number in a binade of exponent `e` is in the binade of exponent `e / 2`. -/
theorem sqrt_binade {y : ℝ} {e : ℤ} (hlo : 2 ^ e ≤ y) (hhi : y < 2 ^ (e + 1)) :
    2 ^ (e / 2) ≤ Real.sqrt y ∧ Real.sqrt y < 2 ^ (e / 2 + 1) := by
  constructor
  · refine Real.le_sqrt_of_sq_le (le_trans ?_ hlo)
    rw [← zpow_natCast, ← zpow_mul]
    exact zpow_le_zpow_right₀ one_le_two (by push_cast; omega)
  · rw [Real.sqrt_lt' (zpow_pos two_pos _), ← zpow_natCast, ← zpow_mul]
    exact hhi.trans_le (zpow_le_zpow_right₀ one_le_two (by push_cast; omega))

/-- Scaling by an even power of two scales the square root by half of it. -/
theorem sqrt_div_two_zpow (y : ℝ) (q : ℤ) : Real.sqrt (y / 2 ^ (2 * q)) = Real.sqrt y / 2 ^ q := by
  rw [mul_comm 2 q, zpow_mul, zpow_ofNat, Real.sqrt_div' _ (sq_nonneg _), Real.sqrt_sq (zpow_pos two_pos _).le]

/-- `round_binary64` of the square root of a rational below `2 ^ 2046` (spec/46_measurement.md R279). -/
theorem roundsTo_roundSqrtBinary64 {num den : ℕ} (hden : 0 < den) (hlt : num < den * 2 ^ 2046) :
    RoundsTo (roundSqrtBinary64 num den) (Real.sqrt ((num : ℝ) / den)) := by
  unfold roundSqrtBinary64
  split_ifs with h
  · rw [h, Nat.cast_zero, zero_div, Real.sqrt_zero]
    exact roundsTo_zero
  · obtain ⟨hlo, hhi⟩ := ilog2_binade h hden
    obtain ⟨hlo, hhi⟩ := sqrt_binade hlo hhi
    refine roundsTo_of_binade hlo hhi ?_ ?_
    · rw [Real.sqrt_lt' (zpow_pos two_pos _), div_lt_iff₀' (Nat.cast_pos.2 hden)]
      rw [← Nat.cast_lt (α := ℝ), Nat.cast_mul, Nat.cast_pow, Nat.cast_ofNat] at hlt
      rwa [zpow_ofNat, ← pow_mul]
    · rw [← sqrt_div_two_zpow, ← scaled_div]
      exact nearestEven_roundSqrt _ (scaleDen_pos hden _)

/-- A distance from a rational, read in the reals. -/
theorem cast_abs_sub_div (v : ℚ) (num den : ℕ) : ((|v - num / den| : ℚ) : ℝ) = |(v : ℝ) - num / den| := by
  push_cast
  rfl

/-- Settles O37: both roundings pack a significand nearest to the scaled number, ties to even, in the binade of the number; the
first half is read in the rationals. -/
theorem roundBinary64Nearest : Obligations.RoundBinary64Nearest := by
  refine ⟨fun num den hden hlt => ?_, fun num den hden hlt => roundsTo_roundSqrtBinary64 hden hlt⟩
  obtain ⟨hfinite, hnearest⟩ := roundsTo_roundBinary64 hden hlt
  refine ⟨hfinite, fun b hb => ?_⟩
  obtain ⟨hle, heven⟩ := hnearest b hb
  rw [← cast_abs_sub_div, ← cast_abs_sub_div] at hle heven
  exact ⟨Rat.cast_le.1 hle, fun hne heq => heven hne (congrArg Rat.cast heq)⟩

end Sys2Proof.Machine
end

section
/-! PROOFS. The decoder and the encoder are inverse, the illegal frames are those of spec/30_encoding.md R106, and a step rejects
them. -/

namespace Sys2Proof

/-! ### What decodes -/

/-- A frame decodes when the opcode map has a row for it, its unused fields are zero and its bit operand is a bit
(spec/30_encoding.md R106). -/
theorem decode_of_row {f : Frame} {fmt : Format} {i : Instr} (hrow : opcodeRow f = some (fmt, i))
    (hzero : fmt.unusedZero f = true) (hbit : fmt = .fpb → f.b.toNat ≤ 1) : decode f = .ok i := by
  have hlegal : ¬ (fmt = .fpb ∧ 1 < f.b.toNat) := fun h => absurd (hbit h.1) (not_le.2 h.2)
  simp only [decode, hrow, hzero, Bool.true_eq_false, if_false, if_neg hlegal]

/-- A frame with a row that does not decode has a field it does not use or a bit operand that is no bit (spec/30_encoding.md R106
(b), (c)). -/
theorem decode_error_of_row {f : Frame} {fmt : Format} {i : Instr} (hrow : opcodeRow f = some (fmt, i))
    (h : fmt.unusedZero f = false ∨ fmt = .fpb ∧ 1 < f.b.toNat) : ∃ e, decode f = .error e := by
  simp only [decode, hrow]
  by_cases hzero : fmt.unusedZero f = false
  · exact ⟨_, if_pos hzero⟩
  · exact ⟨_, (if_neg hzero).trans (if_pos (h.resolve_left hzero))⟩

/-- What a frame that decodes is (spec/30_encoding.md R106). -/
theorem row_of_decode {f : Frame} {i : Instr} (h : decode f = .ok i) :
    ∃ fmt, opcodeRow f = some (fmt, i) ∧ fmt.unusedZero f = true ∧ (fmt = .fpb → f.b.toNat ≤ 1) := by
  unfold decode at h
  split at h
  next => cases h
  next fmt j hrow =>
    split_ifs at h with hzero hbit
    cases h
    exact ⟨fmt, hrow, eq_true_of_ne_false hzero, fun e => not_lt.1 fun hlt => hbit ⟨e, hlt⟩⟩

/-! ### Decoding the frame of an instruction -/

/-- A row whose instruction is made of a signed index (spec/30_encoding.md R104). -/
theorem opcodeRow_signed {op b : Field8} {x : Int} {fmt : Format} {make : Int → Instr} (hx : fitsInt32 x = true)
    (hrow : rowOf op 0 b (BitVec.ofInt 32 x) 0 = some (fmt, make (int32 (BitVec.ofInt 32 x)))) :
    ∃ fmt, opcodeRow (.ofFields op 0 b (BitVec.ofInt 32 x) 0) = some (fmt, make x) := by
  rw [opcodeRow_ofFields, hrow, int32_ofInt hx]
  exact ⟨fmt, rfl⟩

/-- The opcode map makes an instruction again from the fields of its frame (spec/30_encoding.md R104, R105). -/
theorem opcodeRow_encode {i : Instr} (h : WellFormed i = true) : ∃ fmt, opcodeRow (encode i) = some (fmt, i) := by
  cases i
  case grdlvl pin => exact opcodeRow_signed h rfl
  case ggetdir pin => exact opcodeRow_signed h rfl
  case pconn pin => exact opcodeRow_signed h rfl
  case pdefdir gpio => exact opcodeRow_signed h rfl
  case gwrlvl pin level => cases level <;> exact opcodeRow_signed (make := (.gwrlvl · _)) h rfl
  case gsetdir pin dir => cases dir <;> exact opcodeRow_signed (make := (.gsetdir · _)) h rfl
  all_goals exact ⟨_, opcodeRow_ofFields ..⟩

/-- Settles O4: the frame of an instruction is legal in the format of its row (`EncodesInFormat.all`), and the row gives the
instruction back. -/
theorem decodeEncode : Obligations.DecodeEncode := by
  intro i h
  obtain ⟨fmt, hrow⟩ := opcodeRow_encode h
  obtain ⟨fmt', j, hrow', hzero, hbit⟩ := Laws.EncodesInFormat.all i
  obtain ⟨rfl, rfl⟩ : fmt = fmt' ∧ i = j := Prod.mk.inj (Option.some.inj (hrow.symm.trans hrow'))
  exact decode_of_row hrow hzero hbit

/-! ### Encoding what a frame decodes to -/

/-- Every field a format does not use is zero, field by field (spec/30_encoding.md R101, R106 (b)). -/
theorem unusedZero_iff (fmt : Format) (f : Frame) : fmt.unusedZero f = true ↔
    f.c = 0 ∧ (fmt.usesA = false → f.a = 0) ∧ (fmt.usesB = false → f.b = 0) ∧ (fmt.usesImm1 = false → f.w1 = 0) ∧
      (fmt.usesImm2 = false → f.w2 = 0) := by
  simp only [Format.unusedZero, Bool.and_eq_true, Bool.or_eq_true, beq_iff_eq, or_iff_not_imp_left, Bool.not_eq_true, and_assoc]

/-- A bit operand is the field of its bit (spec/30_encoding.md R102, format FPB). -/
theorem bitField_of_le {b : Field8} (h : b.toNat ≤ 1) : bitField (b == 1#8) = b := by
  obtain h0 | h1 : b.toNat = 0 ∨ b.toNat = 1 := by omega
  · obtain rfl : b = 0 := BitVec.eq_of_toNat_eq h0
    rfl
  · obtain rfl : b = 1 := BitVec.eq_of_toNat_eq h1
    rfl

/-- The fields from which a row made an instruction are those its frame carries (spec/30_encoding.md R102, R105, R112). -/
theorem encode_of_rowOf {op a b : Field8} {w1 w2 : Word} {fmt : Format} {i : Instr} (h : rowOf op a b w1 w2 = some (fmt, i))
    (ha : fmt.usesA = false → a = 0) (hb : fmt.usesB = false → b = 0) (h1 : fmt.usesImm1 = false → w1 = 0)
    (h2 : fmt.usesImm2 = false → w2 = 0) (hbit : fmt = .fpb → b.toNat ≤ 1) :
    WellFormed i = true ∧ encode i = .ofFields op a b w1 w2 := by
  unfold rowOf at h
  split at h
  case h_32 => cases h
  all_goals
    rename_i hop
    have hop' : op = BitVec.ofNat 8 op.toNat := by rw [BitVec.ofNat_toNat, BitVec.setWidth_eq]
    rw [hop] at hop'
    obtain ⟨rfl, rfl⟩ : _ ∧ _ := Prod.mk.inj (Option.some.inj h)
    simp_all [WellFormed, encode, fits_int32, ofInt_int32, Format.usesA, Format.usesB, Format.usesImm1, Format.usesImm2,
      bitField_of_le]

/-- Settles O5: a legal frame is made of its fields (`ofFields_fields`), and those are the fields of its instruction's frame. -/
theorem encodeDecode : Obligations.EncodeDecode := by
  intro f i h
  obtain ⟨fmt, hrow, hzero, hbit⟩ := row_of_decode h
  obtain ⟨hc, ha, hb, h1, h2⟩ := (unusedZero_iff fmt f).1 hzero
  obtain ⟨hwf, hencode⟩ := encode_of_rowOf hrow ha hb h1 h2 hbit
  exact ⟨hwf, hencode.trans (ofFields_fields hc)⟩

end Sys2Proof

namespace Sys2Proof.Machine

/-! ### The illegal frames -/

/-- The second table of opcodes and formats is that of the opcode map (spec/30_encoding.md R105). -/
theorem mem_opcodeFormats_iff (op a b : Field8) (w1 w2 : Word) (fmt : Format) :
    (op.toNat, fmt) ∈ opcodeFormats ↔ ∃ i, rowOf op a b w1 w2 = some (fmt, i) := by
  unfold rowOf
  split <;> simp_all [opcodeFormats]
  all_goals exact eq_comm

/-- A frame is illegal exactly when its opcode has no row, or a field its row's format does not use is not zero, or its bit operand
is no bit (spec/30_encoding.md R106). -/
theorem decode_error_iff (f : Frame) : (∃ e, decode f = .error e) ↔
    opcodeRow f = none ∨ ∃ fmt i, opcodeRow f = some (fmt, i) ∧ (fmt.unusedZero f = false ∨ fmt = .fpb ∧ 1 < f.b.toNat) := by
  constructor
  · rintro ⟨e, he⟩
    cases hrow : opcodeRow f with
    | none => exact .inl rfl
    | some row =>
      obtain ⟨fmt, i⟩ := row
      refine .inr ⟨fmt, i, rfl, ?_⟩
      by_contra hlegal
      obtain ⟨hzero, hbit⟩ := not_or.1 hlegal
      have hok := decode_of_row hrow (eq_true_of_ne_false hzero) fun e => not_lt.1 fun hlt => hbit ⟨e, hlt⟩
      exact absurd (he.symm.trans hok) (by simp)
  · rintro (hnone | ⟨fmt, i, hrow, hbad⟩)
    · exact ⟨.unknownOpcode, by rw [decode, hnone]⟩
    · exact decode_error_of_row hrow hbad

/-- Some field a format does not use is not zero, field by field (spec/30_encoding.md R106 (b)). -/
theorem unusedZero_eq_false_iff (fmt : Format) (f : Frame) : fmt.unusedZero f = false ↔
    f.c ≠ 0 ∨ (fmt.usesA = false ∧ f.a ≠ 0) ∨ (fmt.usesB = false ∧ f.b ≠ 0) ∨ (fmt.usesImm1 = false ∧ f.w1 ≠ 0) ∨
      (fmt.usesImm2 = false ∧ f.w2 ≠ 0) := by
  rw [← Bool.not_eq_true, unusedZero_iff]
  simp only [not_and_or, Classical.not_imp, ne_eq]

/-- The rule of illegal frames in terms of the second table of opcodes and formats (spec/30_encoding.md R106). -/
theorem decode_error_iff_formats (f : Frame) : (∃ e, decode f = .error e) ↔
    (∀ fmt, (f.op.toNat, fmt) ∉ opcodeFormats) ∨
    ∃ fmt, (f.op.toNat, fmt) ∈ opcodeFormats ∧
      (f.c ≠ 0 ∨ (fmt.usesA = false ∧ f.a ≠ 0) ∨ (fmt.usesB = false ∧ f.b ≠ 0) ∨ (fmt.usesImm1 = false ∧ f.w1 ≠ 0) ∨
        (fmt.usesImm2 = false ∧ f.w2 ≠ 0) ∨ (fmt = .fpb ∧ 1 < f.b.toNat)) := by
  have hmem (fmt : Format) : (f.op.toNat, fmt) ∈ opcodeFormats ↔ ∃ i, opcodeRow f = some (fmt, i) :=
    mem_opcodeFormats_iff f.op f.a f.b f.w1 f.w2 fmt
  have hnone : (∀ fmt, (f.op.toNat, fmt) ∉ opcodeFormats) ↔ opcodeRow f = none := by
    simp only [hmem, not_exists, Option.eq_none_iff_forall_ne_some, Prod.forall]
  rw [decode_error_iff, hnone]
  simp only [hmem, unusedZero_eq_false_iff, or_assoc, exists_and_right]

/-! ### Steps -/

/-- A free block takes the frame presented: some time passes, the external actor has its turn, and the frame is run
(spec/40_gpio_register_access.md R130). -/
theorem step_frame {s : State} {f : Frame} {rest : List Input} (hfree : s.fault.halted = false) (hidle : s.seq = .idle)
    (hhost : s.host = .frame f :: rest) :
    step s = runFrame f (actorTurn (later 1 { s with host := rest, out := none })) := by
  simp only [step, hhost, hfree, hidle, Bool.false_eq_true, if_false, if_true]
  rfl

/-- Settles O1: the frame taken is the frame of a well-formed instruction, and running it is running that instruction. -/
theorem stepRunsDecodedFrame : Obligations.StepRunsDecodedFrame := by
  intro s f i rest hfree hidle hhost hdecode
  refine ⟨(encodeDecode f i hdecode).1, ?_⟩
  rw [step_frame hfree hidle hhost, runFrame, hdecode]

/-- Settles O3: the two tables of opcodes agree (`mem_opcodeFormats_iff`), and running an illegal frame is rejecting it. -/
theorem illegalFrames : Obligations.IllegalFrames := by
  refine fun f => ⟨decode_error_iff_formats f, fun s rest e hfree hidle hhost hdecode => ?_⟩
  rw [step_frame hfree hidle hhost, runFrame, hdecode]
  rfl

/-- No step depends on the response of the step before (spec/10_state.md R46). -/
theorem step_out (s : State) (r : Option (List Word)) : step { s with out := r } = step s := rfl

/-- A free block with nothing presented waits while the clock moves on (spec/70_reset_and_hazards.md R341). -/
theorem step_waiting {s : State} (hfree : s.fault.halted = false) (hidle : s.seq = .idle) (hhost : s.host = []) :
    step s = .next (elapse (dropResponse s)) := by
  simp only [step, hhost, hfree, hidle, Bool.false_eq_true, if_false, if_true]

/-- A halted block accepts nothing (spec/40_gpio_register_access.md R130 (1)). -/
theorem step_halted {s : State} (hhost : s.host.head? ≠ some .reset) (hhalted : s.fault.halted = true) :
    step s = .fault .halted := by
  unfold step
  split
  next rest heq => exact absurd (congrArg List.head? heq) hhost
  next => rw [if_pos hhalted]
  next => rw [if_pos hhalted]

/-- A busy block refuses what is offered (spec/40_gpio_register_access.md R130 (2)). -/
theorem step_busy {s : State} (hhost : s.host.head? ≠ some .reset) (hfree : s.fault.halted = false) (hbusy : s.seq ≠ .idle) :
    step s = .refused .busy := by
  have hfree' : ¬ s.fault.halted = true := ne_true_of_eq_false hfree
  unfold step
  split
  next rest heq => exact absurd (congrArg List.head? heq) hhost
  next => rw [if_neg hfree', if_neg hbusy]
  next => rw [if_neg hfree', if_neg hbusy]

/-- Settles O2: with no reset presented the three clauses are the branches of `step`, and none of them reads the response. -/
theorem acceptanceOrder : Obligations.AcceptanceOrder :=
  ⟨fun _ hhost => ⟨step_halted hhost, step_busy hhost, step_waiting⟩, step_out⟩

/-- Settles O6: each frame is taken apart by the decoder's own evaluation. -/
theorem knownFramesDecode : Obligations.KnownFramesDecode :=
  ⟨by decide, by decide, by decide, by decide, by decide, by decide, by decide⟩

/-! ### Reset -/

/-- Settles O7: the values of reset, on a board whose parameters meet their constraints. -/
theorem resetMeetsInv : Obligations.ResetMeetsInv where
  cfgValid := Config.board.ok
  sigResolved := rfl
  seqIdle := fun _ => rfl
  prioNormal := rfl
  haltedIff := ⟨fun hh => absurd hh Bool.false_ne_true, fun hl => nomatch hl⟩
  haltCause := fun hh => absurd hh Bool.false_ne_true
  faultInfo := rfl
  spiSettings := fun hc => nomatch hc

/-- A reset is taken in any state (spec/70_reset_and_hazards.md R340). -/
theorem step_reset {s : State} {rest : List Input} (h : s.host = .reset :: rest) :
    step s = .next (resetBlock (later 1 { s with host := rest })) := by
  rw [step, h]
  rfl

/-- Settles O9: the values are those `resetBlock` gives after some time passed, and those of `State.reset`. -/
theorem resetValues : Obligations.ResetValues := by
  refine ⟨fun s rest h => ⟨_, step_reset h, ?_⟩, ?_⟩
  · exact ⟨rfl, rfl, rfl, rfl, rfl, rfl, rfl, rfl, rfl, rfl, rfl, rfl, rfl, rfl, rfl, rfl⟩
  · exact ⟨rfl, rfl, rfl, rfl, rfl, rfl, rfl, rfl, rfl, rfl, rfl⟩

/-- Settles O18: each cause takes the entry its outcome names (`takeFault_halt`, `takeFault_device`). -/
theorem faultEntry : Obligations.FaultEntry := by
  intro f s
  cases f with
  | fatalInit at_ => exact ⟨rfl, takeFault_halt rfl s⟩
  | fatalConfig at_ setting => exact ⟨rfl, takeFault_halt rfl s⟩
  | invalidAddress idx => exact ⟨rfl, takeFault_halt rfl s⟩
  | deviceIo place => exact ⟨rfl, takeFault_device rfl s⟩
  | resourceAbsent resource => exact ⟨rfl, takeFault_device rfl s⟩

end Sys2Proof.Machine
end

section
/-! PROOFS. The register space byte by byte, the environment that moves between two accesses, and the external actor
(spec/20_memory.md R73 to R78, spec/00_scope.md R12, spec/10_state.md R51, R52, R55). -/

namespace Sys2Proof.Machine

/-! ### The register space by byte address -/

/-- A bank's word is the bits of its lines. -/
theorem get_eq_of_lineBit {r r' : Vector Word 6} {k : BankIdx} (h : ∀ g, bankOf g = k → lineBit r g = lineBit r' g) :
    r.get k = r'.get k := by
  apply BitVec.eq_of_getLsbD_eq
  intro j hj
  have hbank : bankOf ⟨32 * k.val + j, by omega⟩ = k := by simp only [bankOf, Fin.ext_iff]; omega
  have hbit : bitOf ⟨32 * k.val + j, by omega⟩ = j := by simp only [bitOf]; omega
  have hline := h _ hbank
  rwa [lineBit, lineBit, hbank, hbit] at hline

/-- A byte reads the same when the register it belongs to, if any, does (spec/20_memory.md R73, R77). -/
theorem readByte_congr {s t : State} (hcfg : t.cfg = s.cfg) {addr : Word}
    (h : ∀ k r, regAt s.cfg (addr &&& ~~~3#32) = some (k, r) → regValue k r t = regValue k r s) :
    readByte addr t = readByte addr s := by
  simp only [readByte, hcfg]
  cases hreg : regAt s.cfg (addr &&& ~~~3#32) with
  | none => rfl
  | some kr => rw [Option.map_some, Option.map_some, h kr.1 kr.2 hreg]

/-- A stored register reads as its word of the register file. -/
theorem regValue_latch (k : BankIdx) (l : Latch) (s : State) : regValue k l.toReg s = (latchFile l s).get k := by
  cases l <;> rfl

section Exec

variable {i : Instr} {s t : State} (hexec : exec i s = .next t)

include hexec

theorem exec_cfg : t.cfg = s.cfg := (specialStateFrame i s t hexec).1.1

/-- A stored register of which an operation names no line keeps its word. -/
theorem exec_latchFile_get {l : Latch} {k : BankIdx} (h : ∀ g, bankOf g = k → (l, g) ∉ storedBits i s) :
    (latchFile l t).get k = (latchFile l s).get k :=
  get_eq_of_lineBit fun g hg => onlyNamedBitsChange i s t hexec l g (h g hg)

/-- Outside data-in and the registers of the named lines every byte reads as before. -/
theorem readByte_outside {addr : Word} (hdin : ∀ k, addr &&& ~~~3#32 ≠ regAddr s.cfg k .din)
    (hstored : ∀ l g, (l, g) ∈ storedBits i s → addr &&& ~~~3#32 ≠ regAddr s.cfg (bankOf g) l.toReg) :
    readByte addr t = readByte addr s := by
  refine readByte_congr (exec_cfg hexec) fun k r hreg => ?_
  have haddr := eq_regAddr_of_regAt hreg
  have hlatch (l : Latch) (hl : addr &&& ~~~3#32 = regAddr s.cfg k l.toReg) : regValue k l.toReg t = regValue k l.toReg s := by
    rw [regValue_latch, regValue_latch]
    refine exec_latchFile_get hexec fun g hg hmem => hstored l g hmem ?_
    rw [hg, hl]
  cases r with
  | oe => exact hlatch .oe haddr
  | din => exact absurd haddr (hdin k)
  | dout => exact hlatch .dout haddr

/-- An operation that names no line leaves the register file as it was. -/
theorem exec_file_of_no_line (h : storedBits i s = []) : t.oe = s.oe ∧ t.dout = s.dout := by
  have hfile (l : Latch) : latchFile l t = latchFile l s :=
    ext_lineBit fun g => onlyNamedBitsChange i s t hexec l g (h ▸ List.not_mem_nil)
  exact ⟨hfile .oe, hfile .dout⟩

end Exec

/-- Settles O13: the decoder names a register, and a stored register whose lines the operation does not name keeps its word
(`onlyNamedBitsChange`). -/
theorem bytesOutsideStoresUnchanged : Obligations.BytesOutsideStoresUnchanged := by
  refine fun i s t hexec => ⟨fun addr => readByte_outside hexec, fun hnone addr => ?_⟩
  obtain ⟨hoe, hdout⟩ := exec_file_of_no_line hexec hnone
  have hcfg := exec_cfg hexec
  refine readByte_congr (t := { t with env := s.env }) hcfg fun k r _ => ?_
  cases r <;> simp only [regValue, padWord, hoe, hdout]

/-! ### The clock -/

/-- No step turns the clock back (spec/10_state.md R55). -/
theorem step_clk_le {s t : State} (h : step s = .next t) : s.clk ≤ t.clk := by
  obtain ⟨rest, -, rfl⟩ | ⟨-, -, -, rfl⟩ | ⟨-, -, f, rest, -, hrun⟩ := step_next_cases h
  · exact Nat.le_add_right _ _
  · exact Nat.le_add_right _ _
  · refine (Nat.le_add_right s.clk _).trans (?_ : (actorTurn (elapse (dropResponse { s with host := rest }))).clk ≤ t.clk)
    unfold runFrame at hrun
    split at hrun
    · cases hrun
      exact Nat.le_refl _
    next i _ =>
      obtain ⟨-, -, -, -, -, -, hclk, -⟩ := specialStateFrame i _ t hrun
      exact hclk

section Ticks

variable {s : State} {a : Nat}

/-- The next time the clock moves on, it moves on by the next answer of the script. -/
theorem elapse_clk_of_answers {rest : List Nat} (h : s.env.gaps.answers = a :: rest) :
    s.clk + s.env.gaps.head Config.freeGaps = s.clk + a := by
  rw [Script.head, h, List.headD_cons]

theorem memRead_clk {k : BankIdx} {r : Reg} {x : Word} {u : State} (h : memRead k r s = .done x u) :
    u.clk = s.clk + s.env.gaps.head Config.freeGaps := by
  cases hok : accessOk s with
  | false => rw [memRead_refused hok] at h; cases h
  | true =>
    rw [memRead_granted hok] at h
    cases h
    cases r <;> rfl

/-- SXFER takes the time before its transfer, granted or refused (spec/42_spi_transactor.md R186). -/
theorem exec_sxfer_clk (hc : s.spi.cfg = .configured) (w : Word) :
    ∃ t, exec (.sxfer w) s = .next t ∧ t.clk = s.clk + s.env.gaps.head Config.freeGaps := by
  cases hx : xferOk s with
  | false => exact ⟨_, exec_sxfer_refused hc hx w, rfl⟩
  | true => exact ⟨_, exec_sxfer_granted hc hx w, rfl⟩

theorem step_waiting_clk {t : State} (hhost : s.host = []) (h : step s = .next t) :
    t.clk = s.clk + s.env.gaps.head Config.freeGaps := by
  obtain ⟨rest, hreset, -⟩ | ⟨-, -, -, rfl⟩ | ⟨-, -, f, rest, hframe, -⟩ := step_next_cases h
  · rw [hhost] at hreset; cases hreset
  · rfl
  · rw [hhost] at hframe; cases hframe

end Ticks

/-! ### The pads -/

/-- Pads that stand at a level for each line (spec/10_state.md R51). -/
def padsAt (level : Line → Bool) : Vector Word 6 :=
  .ofFn fun k => BitVec.ofFnLE fun j : Fin 32 => level ⟨32 * k.val + j.val, by omega⟩

theorem padsAt_bit (level : Line → Bool) (g : Line) : ((padsAt level).get (bankOf g)).getLsbD (bitOf g) = level g := by
  have hline : (⟨32 * (bankOf g).val + bitOf g, by have := bitOf_lt g; omega⟩ : Line) = g := by
    simp only [bankOf, bitOf, Fin.ext_iff]
    omega
  have hlt := bitOf_lt g
  simp [padsAt, Vector.get_eq_getElem, hlt, hline]

/-- An input line shows the pads presented (spec/10_state.md R25, R51). -/
theorem lineLevel_input {level : Line → Bool} {s : State} {rest : List (Vector Word 6)}
    (h : s.env.pads.answers = padsAt level :: rest) {g : Line} (hin : lineBit s.oe g = true) : lineLevel g s = level g := by
  have hpads : s.env.pads.head Config.freePads = padsAt level := by rw [Script.head, h, List.headD_cons]
  rw [lineLevel_eq, if_pos (show lineIsInput g s = true from hin), padWord, hpads, padsAt_bit]

/-- Settles O15: each place where the clock moves draws the next answer of the script (`elapse`), and every assignment of levels to
the lines is an answer of the pads (`padsAt`). -/
theorem clockAndPadsMoveFreely : Obligations.ClockAndPadsMoveFreely := by
  refine ⟨fun s t => step_clk_le, fun s a b rest h => ?_, fun level => ⟨padsAt level, fun s rest h g => lineLevel_input h⟩⟩
  have hclk : s.clk + s.env.gaps.head Config.freeGaps = s.clk + a := elapse_clk_of_answers h
  have htail : s.env.gaps.tail.answers = b :: rest := by rw [Script.tail, h, List.tail_cons]
  refine ⟨fun k r x u hread => (memRead_clk hread).trans hclk, fun g v hm hg => ?_, fun w hc => ?_, fun t hhost hstep => ?_⟩
  · refine ⟨_, exec_gwrlvl_granted hm hg g v, ?_, ?_⟩
    · change s.clk + (s.env.gaps.head Config.freeGaps + (s.env.gaps.tail.head Config.freeGaps + 0)) = s.clk + a + b
      rw [Script.head, Script.head, h, htail, List.headD_cons, List.headD_cons]
      omega
    · change s.env.gaps.tail.tail.answers = rest
      rw [Script.tail, htail, List.tail_cons]
  · obtain ⟨t, hexec, ht⟩ := exec_sxfer_clk hc w
    exact ⟨t, hexec, ht.trans hclk⟩
  · exact (step_waiting_clk hhost hstep).trans hclk

/-! ### The external actor -/

/-- What a bank holds after writes of which all those to it write one word (spec/10_state.md R52). -/
theorem afterWrites_get {l : Latch} {k : BankIdx} {w : Word} {ws : List ActorWrite}
    (h : ∀ x ∈ ws, x.latch = l → x.bank = k → x.value = w) (r : Vector Word 6)
    (hk : (∃ x ∈ ws, x.latch = l ∧ x.bank = k) ∨ r.get k = w) : (afterWrites l ws r).get k = w := by
  induction ws generalizing r with
  | nil => exact hk.resolve_left fun ⟨x, hx, _⟩ => List.not_mem_nil hx
  | cons x ws ih =>
    rw [afterWrites]
    refine ih (fun y hy => h y (List.mem_cons_of_mem x hy)) _ ?_
    by_cases hx : x.latch = l ∧ x.bank = k
    · right
      rw [if_pos hx.1, get_set_bank, if_pos hx.2.symm, h x List.mem_cons_self hx.1 hx.2]
    · obtain ⟨y, hy, hyk⟩ | hr := hk
      · obtain rfl | hy := List.mem_cons.1 hy
        · exact absurd hyk hx
        · exact .inl ⟨y, hy, hyk⟩
      · right
        split
        next hl => rw [get_set_bank, if_neg fun e => hx ⟨hl, e.symm⟩, hr]
        next => exact hr

/-- The writes that bring every stored register to a value, bank by bank. -/
def fileWrites (file : Latch → Vector Word 6) : List ActorWrite :=
  (List.finRange 6).flatMap fun k => [⟨.oe, k, (file .oe).get k⟩, ⟨.dout, k, (file .dout).get k⟩]

theorem value_of_mem_fileWrites {file : Latch → Vector Word 6} {x : ActorWrite} (h : x ∈ fileWrites file) :
    x.value = (file x.latch).get x.bank := by
  obtain ⟨k, -, hx⟩ := List.mem_flatMap.1 h
  simp only [List.mem_cons, List.not_mem_nil, or_false] at hx
  obtain rfl | rfl := hx <;> rfl

theorem exists_mem_fileWrites (file : Latch → Vector Word 6) (l : Latch) (k : BankIdx) :
    ∃ x ∈ fileWrites file, x.latch = l ∧ x.bank = k := by
  refine ⟨⟨l, k, (file l).get k⟩, List.mem_flatMap.2 ⟨k, List.mem_finRange k, ?_⟩, rfl, rfl⟩
  cases l <;> simp

/-- Whatever the registers held, they hold the values written. -/
theorem afterWrites_fileWrites (file : Latch → Vector Word 6) (l : Latch) (r : Vector Word 6) :
    afterWrites l (fileWrites file) r = file l := by
  apply Vector.ext
  intro k hk
  refine afterWrites_get (k := ⟨k, hk⟩) (fun x hx hl hbank => ?_) r (.inl (exists_mem_fileWrites file l ⟨k, hk⟩))
  rw [value_of_mem_fileWrites hx, hl, hbank]
  rfl

/-- Settles O16: the actor's turn is a record of writes, and one write of every stored register reaches any values. -/
theorem externalActor : Obligations.ExternalActor := by
  refine ⟨fun _ => rfl, fun oe dout => ⟨fileWrites fun l => match l with | .oe => oe | .dout => dout, fun s hs => ?_⟩⟩
  rw [actorTurn_oe, actorTurn_dout, hs]
  exact ⟨afterWrites_fileWrites _ .oe s.oe, afterWrites_fileWrites _ .dout s.dout⟩

end Sys2Proof.Machine
end

section
/-! PROOFS. The response of every operation: how its body ends, the number of value words and the reasons of rejection included,
and that only a halt gives no response (spec/30_encoding.md R108 to R110). -/

namespace Sys2Proof.Machine

/-! ### How a part of an operation ends -/

/-- A part that ends done ends with an acceptable value, and one that ends rejected is rejected for a reason the block gives
(spec/30_encoding.md R109: BAD_INDEX is none). -/
def Res.Answers {α : Type} (ok : α → Prop) : Res α → Prop
  | .done a _ => ok a
  | .rejected reason _ => reason = .badArg ∨ reason = .badState
  | .raised _ _ => True

/-- The same with every value acceptable. -/
abbrev Res.Fair {α : Type} (r : Res α) : Prop := r.Answers fun _ => True

section Parts

variable {α β : Type} {ok : β → Prop} {s : State}

/-- Two parts in sequence. -/
theorem answers_andThen {r : Res α} {k : α → State → Res β} (h : r.Fair) (hk : ∀ a t, (k a t).Answers ok) :
    (r.andThen k).Answers ok := by
  cases r with
  | done a t => exact hk a t
  | rejected reason t => exact h
  | raised f t => trivial

theorem requireMapped_fair : (requireMapped s).Fair := by unfold requireMapped; split <;> trivial
theorem resolvePin_fair (pin : Int) : (resolvePin pin s).Fair := by unfold resolvePin; split <;> trivial
theorem checkIndex_fair (idx : Field8) (n : Nat) : (checkIndex idx n s).Fair := by unfold checkIndex; split <;> trivial
theorem memRead_fair (k : BankIdx) (r : Reg) : (memRead k r s).Fair := by unfold memRead; split <;> trivial
theorem memWrite_fair (k : BankIdx) (l : Latch) (v : Word) : (memWrite k l v s).Fair := by unfold memWrite; split <;> trivial
theorem rmwBit_fair (k : BankIdx) (l : Latch) (m : Word) (v : Bool) : (rmwBit k l m v s).Fair :=
  answers_andThen (memRead_fair k l.toReg) fun _ _ => memWrite_fair k l _
theorem readLevel_fair (g : Line) : (readLevel g s).Fair :=
  answers_andThen requireMapped_fair fun _ _ => answers_andThen (memRead_fair _ _) fun _ _ => trivial
theorem writeLevel_fair (g : Line) (v : Bool) : (writeLevel g v s).Fair :=
  answers_andThen requireMapped_fair fun _ _ => rmwBit_fair _ _ _ v

theorem spiXfer_fair (w : Word) : (spiXfer w s).Fair := by
  obtain ⟨-, -, e⟩ | ⟨-, e⟩ | ⟨-, -, e⟩ := spiXfer_cases w s <;> rw [e] <;> trivial

/-- A target that names no line is refused as an argument (spec/44_power_enable.md R221). -/
theorem powerLine_fair (target idx : Field8) : (powerLine target idx s).Fair := by
  cases hline : powerLineOf s.sig target idx with
  | some g => rw [powerLine_line hline]; trivial
  | none =>
    obtain e | e := powerLine_none hline <;> rw [e]
    · exact .inl rfl
    · trivial

/-! ### The loops -/

theorem mapBanks_fair (ks : List BankIdx) : (mapBanks ks s).Fair := by
  induction ks generalizing s with
  | nil => trivial
  | cons k ks ih =>
    unfold mapBanks
    split
    · exact ih
    · trivial

theorem configLine_fair (g : Line) : (configLine g s).Fair := by
  unfold configLine
  split
  · trivial
  · exact rmwBit_fair _ _ _ false
  · exact rmwBit_fair _ _ _ true

theorem configLines_fair (gs : List Line) : (configLines gs s).Fair := by
  induction gs generalizing s with
  | nil => trivial
  | cons g gs ih => exact answers_andThen (configLine_fair g) fun _ _ => ih

theorem eachSetting_fair {call : SpiSetting → State → Res Unit} (hc : ∀ x s, (call x s).Fair) (xs : List SpiSetting) :
    (eachSetting call xs s).Fair := by
  induction xs generalizing s with
  | nil => trivial
  | cons x xs ih => exact answers_andThen (hc x s) fun _ _ => ih

theorem setSetting_fair (x : SpiSetting) (s : State) : (setSetting x s).Fair := by unfold setSetting; split <;> trivial

theorem getSetting_fair (x : SpiSetting) (s : State) : (getSetting x s).Fair := by
  unfold getSetting
  dsimp only
  split_ifs <;> trivial

theorem captureSamples_fair (chan : AdcChan) (settleCount : Word) (m i : Nat) :
    (captureSamples chan settleCount m i s).Fair := by
  induction m generalizing i s with
  | zero => trivial
  | succ m ih => exact answers_andThen (spiXfer_fair _) fun _ _ => ih (i + 1)

/-! ### The protocols -/

theorem writeDirection_fair (d : Drive) (dir : StepDir) : (writeDirection d dir s).Fair := by
  unfold writeDirection
  split
  · trivial
  · exact writeLevel_fair _ _

/-- The stepping protocol answers no value (spec/45_motion.md R245). -/
theorem stepPulse_answers (d : Drive) (dir : StepDir) (freq : Nat) : (stepPulse d dir freq s).Answers (·.length = 0) :=
  answers_andThen (writeDirection_fair d dir) fun _ _ => answers_andThen (writeLevel_fair _ _) fun _ _ =>
    answers_andThen (writeLevel_fair _ _) fun _ _ => rfl

theorem checkMeasureArgs_fair (dev chan : Field8) (n : Word) : (checkMeasureArgs dev chan n s).Fair := by
  unfold checkMeasureArgs
  split
  · exact .inl rfl
  · exact answers_andThen (checkIndex_fair _ _) fun _ _ => answers_andThen (checkIndex_fair _ _) fun _ _ => trivial

theorem acquire_fair (dev : AdcDev) (chan : AdcChan) (n : Nat) (settleCount : Word) :
    (acquire dev chan n settleCount s).Fair := by
  refine answers_andThen (answers_andThen (writeLevel_fair _ _) fun _ _ => writeLevel_fair _ _) fun _ _ => ?_
  refine answers_andThen (spiXfer_fair _) fun _ _ => answers_andThen (spiXfer_fair _) fun _ _ => ?_
  exact answers_andThen (spiXfer_fair _) fun _ _ => captureSamples_fair _ _ _ _

end Parts

/-! ### Every operation -/

/-- An operation ends as its body ends, with its number of value words when it is done (spec/30_encoding.md R110). -/
def ExecAnswers (i : Instr) (s : State) : Prop := ∃ r, exec i s = finish r ∧ r.Answers (·.length = valueCount i)

section Instructions

variable (s : State)

theorem execAnswers_gopen : ExecAnswers .gopen s := by
  refine ⟨_, rfl, ?_⟩
  split
  · exact .inr rfl
  · dsimp only
    split
    · rfl
    · trivial

theorem execAnswers_gmap : ExecAnswers .gmap s := by
  refine ⟨_, rfl, ?_⟩
  split
  · exact .inr rfl
  · exact answers_andThen (mapBanks_fair _) fun _ _ => rfl

theorem execAnswers_grelease : ExecAnswers .grelease s := by
  refine ⟨_, rfl, ?_⟩
  split
  · exact .inr rfl
  · rfl

theorem execAnswers_scfg : ExecAnswers .scfg s := by
  refine ⟨_, rfl, ?_⟩
  split
  · exact .inr rfl
  · dsimp only
    split
    · refine answers_andThen (eachSetting_fair setSetting_fair _) fun _ _ => ?_
      exact answers_andThen (eachSetting_fair getSetting_fair _) fun _ _ => rfl
    · trivial

theorem execAnswers_araw2v (raw fsUv : Word) : ExecAnswers (.araw2v raw fsUv) s := by
  refine ⟨_, rfl, ?_⟩
  split
  · exact .inl rfl
  · rfl

theorem execAnswers_osetustep (mode : Field8) : ExecAnswers (.osetustep mode) s := by
  refine ⟨_, rfl, ?_⟩
  split
  · exact .inl rfl
  · exact answers_andThen (writeLevel_fair _ _) fun _ _ => answers_andThen (writeLevel_fair _ _) fun _ _ => rfl

theorem execAnswers_ostep1 (drive dir : Field8) (freq : Word) : ExecAnswers (.ostep1 drive dir freq) s := by
  refine ⟨_, rfl, ?_⟩
  split
  · exact .inl rfl
  · split
    · exact .inl rfl
    · exact answers_andThen (checkIndex_fair _ _) fun _ _ => stepPulse_answers _ _ _

/-- Every operation ends in one of its own responses or in a fault. -/
theorem exec_answers (i : Instr) : ExecAnswers i s := by
  have hcheck (idx : Field8) (n : Nat) {k : Fin n → State → Res (List Word)} (hk : ∀ d t, (k d t).Answers (·.length = 1)) :
      ((checkIndex idx n s).andThen k).Answers (·.length = 1) := answers_andThen (checkIndex_fair idx n) hk
  cases i with
  | gopen => exact execAnswers_gopen s
  | gmap => exact execAnswers_gmap s
  | grdlvl pin =>
    exact ⟨_, rfl, answers_andThen (resolvePin_fair pin) fun _ _ => answers_andThen (readLevel_fair _) fun _ _ => rfl⟩
  | gwrlvl pin level =>
    exact ⟨_, rfl, answers_andThen (resolvePin_fair pin) fun _ _ => answers_andThen (writeLevel_fair _ _) fun _ _ => rfl⟩
  | ggetdir pin =>
    exact ⟨_, rfl, answers_andThen (resolvePin_fair pin) fun _ _ => answers_andThen requireMapped_fair fun _ _ =>
      answers_andThen (memRead_fair _ _) fun _ _ => rfl⟩
  | gsetdir pin dir =>
    exact ⟨_, rfl, answers_andThen (resolvePin_fair pin) fun _ _ => answers_andThen requireMapped_fair fun _ _ =>
      answers_andThen (rmwBit_fair _ _ _ _) fun _ _ => rfl⟩
  | gcfgall =>
    exact ⟨_, rfl, answers_andThen requireMapped_fair fun _ _ => answers_andThen (configLines_fair _) fun _ _ => rfl⟩
  | grelease => exact execAnswers_grelease s
  | pconn pin => exact ⟨_, rfl, rfl⟩
  | pdefdir gpio => exact ⟨_, rfl, rfl⟩
  | pstep d => exact ⟨_, rfl, hcheck d 6 fun _ _ => rfl⟩
  | pdir d => exact ⟨_, rfl, hcheck d 6 fun _ _ => rfl⟩
  | pen d => exact ⟨_, rfl, hcheck d 6 fun _ _ => rfl⟩
  | pusboff j => exact ⟨_, rfl, hcheck j 7 fun _ _ => rfl⟩
  | scfg => exact execAnswers_scfg s
  | sxfer word => exact ⟨_, rfl, answers_andThen (spiXfer_fair word) fun _ _ => rfl⟩
  | aencinit => exact ⟨_, rfl, rfl⟩
  | aenccfg => exact ⟨_, rfl, rfl⟩
  | aencsel chan => exact ⟨_, rfl, hcheck chan 12 fun _ _ => rfl⟩
  | aencfifo => exact ⟨_, rfl, rfl⟩
  | aencpd => exact ⟨_, rfl, rfl⟩
  | adecode word => exact ⟨_, rfl, rfl⟩
  | araw2v raw fsUv => exact execAnswers_araw2v s raw fsUv
  | oena target idx =>
    exact ⟨_, rfl, answers_andThen (powerLine_fair target idx) fun _ _ => answers_andThen (writeLevel_fair _ _) fun _ _ => rfl⟩
  | odis target idx =>
    exact ⟨_, rfl, answers_andThen (powerLine_fair target idx) fun _ _ => answers_andThen (writeLevel_fair _ _) fun _ _ => rfl⟩
  | oisena target idx =>
    exact ⟨_, rfl, answers_andThen (powerLine_fair target idx) fun _ _ => answers_andThen (readLevel_fair _) fun _ _ => rfl⟩
  | osetustep mode => exact execAnswers_osetustep s mode
  | ogetustep =>
    exact ⟨_, rfl, answers_andThen (readLevel_fair _) fun _ _ => answers_andThen (readLevel_fair _) fun _ _ => rfl⟩
  | ostep1 drive dir freq => exact execAnswers_ostep1 s drive dir freq
  | ophreset =>
    exact ⟨_, rfl, answers_andThen (writeLevel_fair _ _) fun _ _ => answers_andThen (writeLevel_fair _ _) fun _ _ => rfl⟩
  | omeasure dev chan n settleCount =>
    exact ⟨_, rfl, answers_andThen (checkMeasureArgs_fair dev chan n) fun _ _ =>
      answers_andThen (acquire_fair _ _ _ _) fun _ _ => rfl⟩

end Instructions

/-! ### The response -/

/-- The response of a body that ends so (spec/30_encoding.md R108, R109, R110). -/
theorem Res.Answers.complete_out {n : Nat} {r : Res (List Word)} (h : r.Answers (·.length = n)) :
    (∃ ws, (complete r).out = some (0x00000000#32 :: ws) ∧ ws.length = n) ∨ (complete r).out = some [0x01030000#32] ∨
      (complete r).out = some [0x01040000#32] ∨ (complete r).out = some [0x02000000#32] ∨ (complete r).out = none := by
  cases r with
  | done ws t => exact .inl ⟨ws, rfl, h⟩
  | rejected reason t =>
    obtain rfl | rfl := h
    · exact .inr (.inl rfl)
    · exact .inr (.inr (.inl rfl))
  | raised f t =>
    obtain e | e := takeFault_cases f t <;> rw [complete, e]
    · exact .inr (.inr (.inr (.inl rfl)))
    · exact .inr (.inr (.inr (.inr rfl)))

/-- A body that leaves the block running gives no response exactly when it ends in a halt (spec/60_exceptions.md R310, R311). -/
theorem complete_out_eq_none_iff {r : Res (List Word)} (h : r.left.fault.halted = false) :
    (complete r).out = none ↔ (complete r).fault.halted = true := by
  have hresponds {ws : List Word} {t : State} (ht : t.fault.halted = false) : some ws = none ↔ t.fault.halted = true :=
    iff_of_false (Option.some_ne_none ws) (ne_true_of_eq_false ht)
  cases r with
  | done ws t => exact hresponds h
  | rejected reason t => exact hresponds h
  | raised f t =>
    obtain e | e := takeFault_cases f t <;> rw [complete, e]
    · exact hresponds h
    · exact iff_of_true rfl rfl

/-- Settles O17: every body ends in a response of its own or a fault (`exec_answers`) and leaves FAULT alone (`exec_keeps`), so only
halt entry, which gives no response, halts the block. -/
theorem responseFrames : Obligations.ResponseFrames := by
  intro i s hfree
  obtain ⟨r, hexec, hr⟩ := exec_answers s i
  obtain ⟨r', hexec', hkeeps⟩ := exec_keeps s i
  have hsame : complete r = complete r' := Host.Outcome.next.inj (hexec.symm.trans hexec')
  refine ⟨complete r, hexec, hr.complete_out, ?_⟩
  rw [hsame]
  exact complete_out_eq_none_iff ((congrArg FaultReg.halted hkeeps.left.fault).trans hfree)

end Sys2Proof.Machine
end

section
/-! PROOFS. GRELEASE, GRDLVL, GWRLVL, GGETDIR, GSETDIR and GCFGALL: the checks of a line, and each operation with its accesses
granted or one of them refused (spec/40_gpio_register_access.md). -/

namespace Sys2Proof.Machine

/-! ### GRELEASE -/

/-- Settles O21: rejected outside MAPPED, released in it. -/
theorem grelease : Obligations.Grelease := by
  refine ⟨ofFields_eq .., fun s => ⟨fun hl => ?_, fun hl => ?_⟩⟩
  · rw [exec, execGrelease, if_pos hl, finish_rejected, respond_badState]
  · rw [exec, execGrelease, if_neg (not_not.2 hl), finish_done, respond_ok]
    rfl

/-! ### The checks of a line -/

/-- An operation that resolves its line, enters phase RUN and then needs the register file mapped makes the pin and mapping
checks (spec/40_gpio_register_access.md R132, R134). -/
theorem pinChecked_of_body {op : Int → Instr} (body : Line → State → Res (List Word))
    (hexec : ∀ pin s, exec (op pin) s = finish ((resolvePin pin s).andThen fun g t => body g (enter .run t)))
    (hunmapped : ∀ g t, t.lc ≠ .mapped → body g t = .raised (.resourceAbsent .gpio) t) : PinChecked op := by
  refine ⟨fun s pin hout => ⟨afterHalt (.invalidAddress pin) s, ?_, rfl⟩, fun s g hm => ?_⟩
  · rw [hexec, resolvePin_out hout, andThen_raised, finish_raised, takeFault_halt rfl]
    rfl
  · have hbody := hunmapped g (enter .run s) hm
    rw [hexec, resolvePin_line, andThen_done, hbody, finish_deviceFault rfl]
    rfl

theorem readLevel_unmapped {s : State} (hm : s.lc ≠ .mapped) (g : Line) :
    readLevel g s = .raised (.resourceAbsent .gpio) s := by
  rw [readLevel, requireMapped_unmapped hm, andThen_raised]

theorem writeLevel_unmapped {s : State} (hm : s.lc ≠ .mapped) (g : Line) (v : Bool) :
    writeLevel g v s = .raised (.resourceAbsent .gpio) s := by
  rw [writeLevel, requireMapped_unmapped hm, andThen_raised]

/-! ### GRDLVL -/

theorem pinChecked_grdlvl : PinChecked .grdlvl :=
  pinChecked_of_body (fun g t => (readLevel g t).andThen fun v u => .done [boolWord v] u) (fun _ _ => rfl) fun g t hm => by
    rw [readLevel_unmapped hm, andThen_raised]

/-- GRDLVL with its access refused (spec/40_gpio_register_access.md R135). -/
theorem exec_grdlvl_refused {s : State} (hm : s.lc = .mapped) (h : accessOk s = false) (g : Line) :
    exec (.grdlvl (g.val : Int)) s = .next (afterDeviceFault (.deviceIo (.register (regAddr s.cfg (bankOf g) .din)))
      (logEvent (.accessFailed (regAddr s.cfg (bankOf g) .din)) (tookAccess (enter .run s)))) := by
  have hread := readLevel_refused (s := enter .run s) hm h g
  rw [exec, execGrdlvl, resolvePin_line, andThen_done, hread, andThen_raised, finish_deviceFault rfl]
  rfl

/-- Settles O22: the checks of the line, then one read of data-in, granted or refused. -/
theorem grdlvl : Obligations.Grdlvl := by
  refine ⟨fun _ => ofFields_eq .., pinChecked_grdlvl, fun s g hm => ⟨fun h => ?_, fun h => ?_⟩⟩
  · rw [exec_grdlvl_granted hm h, ← seenLevel_eq, ← trace_run]
    rfl
  · rw [exec_grdlvl_refused hm h, ← trace_run]
    rfl

/-! ### GWRLVL and GSETDIR -/

/-- The operations that write one bit of a line's stored register (spec/40_gpio_register_access.md R137, R141). -/
def bitWrites : List ((Int → Bool → Instr) × Latch) := [(.gwrlvl, .dout), (.gsetdir, .oe)]

section BitWrite

variable {op : Int → Bool → Instr} {l : Latch} (hop : (op, l) ∈ bitWrites)

include hop

/-- Both share one body: the mapping check, then one read-modify-write. -/
theorem exec_bitWrite (pin : Int) (v : Bool) (s : State) : exec (op pin v) s =
    finish ((resolvePin pin s).andThen fun g t => (requireMapped (enter .run t)).andThen fun _ u =>
      (rmwBit (bankOf g) l (maskOf g) v u).andThen fun _ w => .done [] w) := by
  simp only [bitWrites, List.mem_cons, List.not_mem_nil, or_false, Prod.mk.injEq] at hop
  obtain ⟨rfl, rfl⟩ | ⟨rfl, rfl⟩ := hop
  · simp only [exec, execGwrlvl, writeLevel, andThen_andThen]
  · rfl

theorem pinChecked_bitWrite (v : Bool) : PinChecked (op · v) :=
  pinChecked_of_body
    (fun g t => (requireMapped t).andThen fun _ u => (rmwBit (bankOf g) l (maskOf g) v u).andThen fun _ w => .done [] w)
    (fun pin s => exec_bitWrite hop pin v s) fun g t hm => by rw [requireMapped_unmapped hm, andThen_raised]

/-- Both accesses granted (spec/40_gpio_register_access.md R136). -/
theorem exec_bitWrite_granted {s : State} (hm : s.lc = .mapped) (h : accessesGranted 2 s) (g : Line) (v : Bool) :
    exec (op (g.val : Int) v) s = .next (answered [0x00000000#32] (rmwDone l g v (enter .run s))) := by
  have hmapped := requireMapped_mapped (s := enter .run s) hm
  have hwrite := rmwBit_granted (s := enter .run s) h l g v
  rw [exec_bitWrite hop, resolvePin_line, andThen_done, hmapped, andThen_done, hwrite, andThen_done, finish_done, respond_ok]

/-- Access number `k` refused (spec/40_gpio_register_access.md R136, spec/60_exceptions.md R306). -/
theorem exec_bitWrite_refused {s : State} {k : Nat} (hm : s.lc = .mapped) (hk : k < 2) (h : accessesGranted k s)
    (hn : ¬ accessesGranted (k + 1) s) (g : Line) (v : Bool) :
    exec (op (g.val : Int) v) s = .next (afterDeviceFault (.deviceIo (.register (regAddr s.cfg (bankOf g) l.toReg)))
      (rmwRefused l g k (enter .run s))) := by
  have hmapped := requireMapped_mapped (s := enter .run s) hm
  have hwrite := rmwBit_refused (s := enter .run s) hk h hn l g v
  rw [exec_bitWrite hop, resolvePin_line, andThen_done, hmapped, andThen_done, hwrite, andThen_raised, finish_deviceFault rfl]
  rfl

/-- The read refused: the failure follows the phase. -/
theorem exec_bitWrite_read_refused {s : State} (hm : s.lc = .mapped) (h : accessOk s = false) (g : Line) (v : Bool) :
    exec (op (g.val : Int) v) s = .next (afterDeviceFault (.deviceIo (.register (regAddr s.cfg (bankOf g) l.toReg)))
      { accessed 1 s with
        trace := s.trace ++ [.phase .run, .accessFailed (regAddr s.cfg (bankOf g) l.toReg)] }) := by
  have hn : ¬ accessesGranted 1 s := fun hg => by
    obtain ⟨hok, -⟩ := (script_grants_succ _ _ _).1 hg
    exact absurd (h.symm.trans hok) Bool.false_ne_true
  rw [exec_bitWrite_refused hop hm (by decide) (script_grants_zero _ _) hn, ← trace_run]
  rfl

/-- The write refused: the read done is in the history (spec/60_exceptions.md R313). -/
theorem exec_bitWrite_write_refused {s : State} (hm : s.lc = .mapped) (h : accessOk s = true)
    (h' : accessOk (tookAccess s) = false) (g : Line) (v : Bool) :
    exec (op (g.val : Int) v) s = .next (afterDeviceFault (.deviceIo (.register (regAddr s.cfg (bankOf g) l.toReg)))
      { accessed 2 s with
        trace := s.trace ++ [.phase .run, .read (regAddr s.cfg (bankOf g) l.toReg) ((latchFile l s).get (bankOf g)),
          .accessFailed (regAddr s.cfg (bankOf g) l.toReg)] }) := by
  have hg : accessesGranted 1 s := (script_grants_succ _ _ _).2 ⟨h, rfl⟩
  have hn : ¬ accessesGranted 2 s := fun hg => by
    obtain ⟨-, hg⟩ := (script_grants_succ _ _ _).1 hg
    obtain ⟨hok, -⟩ := (script_grants_succ _ _ _).1 hg
    exact absurd (h'.symm.trans hok) Bool.false_ne_true
  rw [exec_bitWrite_refused hop hm (by decide) hg hn, ← trace_run]
  cases l <;> rfl

end BitWrite

/-- The frame of an operation with a bit operand (spec/30_encoding.md R101, format FPB). -/
theorem ofFields_bit (op : Field8) (v : Bool) (w : Word) : Frame.ofFields op 0 (bitField v) w 0 =
    { w0 := (op.zeroExtend 32 <<< 24) ||| ((if v then 1#32 else 0#32) <<< 8), w1 := w, w2 := 0 } := by
  have ha : (0 : Field8).zeroExtend 32 <<< 16 = 0#32 := by decide
  have hb : (bitField v).zeroExtend 32 = if v then 1#32 else 0#32 := by cases v <;> rfl
  rw [ofFields_eq, ha, hb, BitVec.or_zero]

/-- Settles O23: the checks of the line, then one read-modify-write of its data-out bit, granted or refused at either access. -/
theorem gwrlvl : Obligations.Gwrlvl := by
  have hop : (Instr.gwrlvl, Latch.dout) ∈ bitWrites := .head _
  refine ⟨fun pin v => ofFields_bit 0x04 v _, pinChecked_bitWrite hop, fun s g v hm => ⟨fun h => ?_, fun h => ?_, fun h h' => ?_⟩⟩
  · exact ⟨_, exec_gwrlvl_granted hm h g v, fun x => lineBit_rmwFile s.dout g x v, levelWritten_eq g v s⟩
  · exact exec_bitWrite_read_refused hop hm h g v
  · exact exec_bitWrite_write_refused hop hm h h' g v

/-- A granted write of a direction bit, with the word written read off the file it leaves. -/
theorem directionWritten_eq (g : Line) (v : Bool) (s : State) : rmwDone .oe g v (enter .run s) =
    { accessed 2 (enter .run s) with
      oe := (rmwDone .oe g v (enter .run s)).oe
      trace := s.trace ++
        [.phase .run, .read (regAddr s.cfg (bankOf g) .oe) (s.oe.get (bankOf g)),
          .write (regAddr s.cfg (bankOf g) .oe) ((rmwFile s.oe g v).get (bankOf g))] } := by
  rw [rmwFile_get, ← trace_run]
  rfl

/-- Settles O25: the checks of the line, then one read-modify-write of its direction bit, granted or refused at either access. -/
theorem gsetdir : Obligations.Gsetdir := by
  have hop : (Instr.gsetdir, Latch.oe) ∈ bitWrites := .tail _ (.head _)
  refine ⟨fun pin v => ofFields_bit 0x06 v _, pinChecked_bitWrite hop, fun s g v hm => ⟨fun h => ?_, fun h => ?_, fun h h' => ?_⟩⟩
  · exact ⟨_, exec_bitWrite_granted hop hm h g v, fun x => lineBit_rmwFile s.oe g x v,
      (congrArg (answered [0x00000000#32]) (directionWritten_eq g v s)).trans rfl⟩
  · exact exec_bitWrite_read_refused hop hm h g v
  · exact exec_bitWrite_write_refused hop hm h h' g v

/-! ### GGETDIR -/

theorem pinChecked_ggetdir : PinChecked .ggetdir :=
  pinChecked_of_body (fun g t => (requireMapped t).andThen fun _ u => (memRead (bankOf g) .oe u).andThen fun v w =>
    .done [boolWord (v &&& maskOf g != 0)] w) (fun _ _ => rfl) fun g t hm => by rw [requireMapped_unmapped hm, andThen_raised]

/-- Settles O24: the checks of the line, then one read of the direction register, granted or refused. -/
theorem ggetdir : Obligations.Ggetdir := by
  refine ⟨fun _ => ofFields_eq .., pinChecked_ggetdir, fun s g hm => ?_⟩
  have hmapped := requireMapped_mapped (s := enter .run s) hm
  refine ⟨fun h => ?_, fun h => ?_⟩
  · have hread := memRead_granted (s := enter .run s) h (bankOf g) .oe
    rw [exec, execGgetdir, resolvePin_line, andThen_done, hmapped, andThen_done, hread, andThen_done, finish_done, respond_ok,
      and_maskOf_ne_zero, ← trace_run]
    rfl
  · have hread := memRead_refused (s := enter .run s) h (bankOf g) .oe
    rw [exec, execGgetdir, resolvePin_line, andThen_done, hmapped, andThen_done, hread, andThen_raised, finish_deviceFault rfl,
      ← trace_run]
    rfl

/-! ### GCFGALL -/

/-! A refused access and its fault leave the register file (spec/60_exceptions.md R310). -/

section Refused

variable (f : Raised) (l : Latch) (g : Line) (k : Nat) (s : State)

@[simp] theorem afterDeviceFault_oe : (afterDeviceFault f s).oe = s.oe := rfl
@[simp] theorem afterDeviceFault_dout : (afterDeviceFault f s).dout = s.dout := rfl
@[simp] theorem rmwRefused_oe : (rmwRefused l g k s).oe = s.oe := rfl
@[simp] theorem rmwRefused_dout : (rmwRefused l g k s).dout = s.dout := rfl

end Refused

/-- The direction bit a policy gives, written out (spec/10_state.md R31). -/
theorem policyBit_eq (p : DirPolicy) (old : Bool) :
    policyBit p old = match p with | .untouched => old | .output => false | .input => true := by cases p <;> rfl

/-- What a configuration that went through adds up to, at the end of the operation. -/
theorem Configured.answered_eq {gs : List Line} {s t : State} (h : Configured gs s t) (ws : List Word) : answered ws t =
    answered ws { accessed (2 * (touchedLines s.cfg gs).length) s with oe := t.oe, trace := t.trace } :=
  (congrArg (answered ws) h.eq).trans rfl

/-- What a configuration leaves that stopped at access `j` of a line after `m` lines (spec/60_exceptions.md R313). -/
theorem Configured.refused_eq {pre : List Line} {s t : State} (h : Configured pre s t) (f : Raised) (g : Line) (j : Nat) :
    afterDeviceFault f (rmwRefused .oe g j (enter (.cf g) t)) = afterDeviceFault f
      { accessed (2 * (touchedLines s.cfg pre).length + j + 1) s with
        oe := t.oe, trace := (rmwRefused .oe g j (enter (.cf g) t)).trace } := by
  rw [Nat.add_assoc, ← accessed_accessed, rmwRefused]
  generalize htrace : (enter (.cf g) t).trace ++ _ = trace
  have heq := congrArg (fun u => afterDeviceFault f { accessed (j + 1) u with trace := trace }) h.eq
  exact heq

/-- The direction bits when the lines before one are configured: it and the lines after it are as before. -/
theorem Configured.bit_before {pre post : List Line} {g : Line} {s t : State} (h : Configured pre s t)
    (hsplit : List.finRange 192 = pre ++ g :: post) (x : Line) :
    lineBit t.oe x = if g ≤ x then lineBit s.oe x else policyBit (s.cfg.dirPolicy.get x) (lineBit s.oe x) := by
  rw [h.bit x]
  simp only [mem_before_iff hsplit, ← not_le, ite_not]

/-- The accesses of a line stopped at access `j`: the read, if it was granted. -/
theorem rmwRefused_accesses {l : Latch} {g : Line} {j : Nat} (hj : j < 2) (s : State) :
    ((rmwRefused l g j s).trace.filter Event.isAccess).length = (s.trace.filter Event.isAccess).length + j := by
  obtain rfl | rfl : j = 0 ∨ j = 1 := by omega
  all_goals
    rw [rmwRefused, List.filter_append, List.length_append]
    rfl

theorem exec_gcfgall {s : State} (hm : s.lc = .mapped) :
    exec .gcfgall s = finish ((configLines (List.finRange 192) s).andThen fun _ t => .done [] t) := by
  rw [exec, execGcfgall, requireMapped_mapped hm, andThen_done]

/-- GCFGALL when its access number `k` is the first refused (spec/40_gpio_register_access.md R143). -/
theorem exec_gcfgall_refused {s : State} {k : Nat} {g : Line} (hm : s.lc = .mapped)
    (hg : (configuredLines s.cfg)[k / 2]? = some g) (h : accessesGranted k s) (hn : ¬ accessesGranted (k + 1) s) :
    ∃ pre post t, List.finRange 192 = pre ++ g :: post ∧ Configured pre s t ∧ (touchedLines s.cfg pre).length = k / 2 ∧
      exec .gcfgall s = .next (afterDeviceFault (.deviceIo (.register (regAddr s.cfg (bankOf g) .oe)))
        (rmwRefused .oe g (k % 2) (enter (.cf g) t))) := by
  obtain ⟨pre, post, t, hsplit, ht, hlen, hrun⟩ := configLines_refused hg h hn
  refine ⟨pre, post, t, hsplit, ht, hlen, ?_⟩
  rw [exec_gcfgall hm, hrun, andThen_raised, finish_deviceFault rfl]

/-- Settles O26: unmapped it faults before any access; granted it configures every line; refused it has configured the lines before
the one whose access was refused (`mem_before_iff`). -/
theorem gcfgall : Obligations.Gcfgall := by
  refine ⟨ofFields_eq .., fun s hm => ?_, fun s hm => ⟨fun h => ?_, fun k g hg h hn => ?_⟩⟩
  · rw [exec, execGcfgall, requireMapped_unmapped hm, andThen_raised, finish_deviceFault rfl]
  · obtain ⟨t, hexec, ht⟩ := exec_gcfgall_granted hm h
    exact ⟨_, hexec, fun x => (ht.bit_of_mem (List.mem_finRange x)).trans (policyBit_eq _ _), ht.answered_eq _, ht.accesses⟩
  · obtain ⟨pre, post, t, hsplit, ht, hlen, hexec⟩ := exec_gcfgall_refused hm hg h hn
    have hk : 2 * (touchedLines s.cfg pre).length + k % 2 = k := by omega
    refine ⟨_, hexec, fun x => ?_, ?_, ?_⟩
    · rw [afterDeviceFault_oe, rmwRefused_oe, enter_oe, ht.bit_before hsplit x]
      exact if_congr Iff.rfl rfl (policyBit_eq _ _)
    · rw [ht.refused_eq, hk]
      rfl
    · have hcount := rmwRefused_accesses (l := .oe) (g := g) (Nat.mod_lt k (by decide)) (enter (.cf g) t)
      have hphase : (enter (.cf g) t).trace.filter Event.isAccess = t.trace.filter Event.isAccess := by
        simp [Event.isAccess]
      rw [hphase, ht.accesses, Nat.add_assoc, hk] at hcount
      exact hcount

end Sys2Proof.Machine
end

section
/-! PROOFS. ARAW2V, the busy-wait, and OSETUSTEP and OGETUSTEP with their accesses granted or one of them refused
(spec/43_adc_codec.md R207, spec/45_motion.md R241 to R243, R247). -/

namespace Sys2Proof.Machine

/-! ### ARAW2V -/

/-- A 64-bit value is its high word before its low word (spec/30_encoding.md R110). -/
theorem words64_append (x : BitVec 64) : (x.extractLsb' 32 32 ++ x.extractLsb' 0 32 : BitVec 64) = x := by
  apply BitVec.eq_of_getLsbD_eq
  intro j hj
  rw [BitVec.getLsbD_append]
  by_cases hlow : j < 32
  · simp [hlow]
  · have hhigh : 32 + (j - 32) = j := by omega
    simp [hlow, hhigh]
    omega

/-- Settles O36: a raw code that is no sample is refused, any other is answered with its rounded voltage. -/
theorem araw2v : Obligations.Araw2v := by
  refine ⟨fun _ _ => ofFields_eq .., fun s raw fs => ⟨fun h => ?_, fun h => ⟨_, _, words64_append _, ?_⟩⟩⟩
  · rw [exec, execAraw2v, if_pos h, finish_rejected, respond_badArg]
  · rw [exec, execAraw2v, if_neg (not_lt.2 h), finish_done, respond_ok]
    rfl

/-! ### The busy-wait -/

/-- Settles O46: the wait ends at or past its deadline (`busyWait_ge`), and its first reading is not before its start. -/
theorem busyWaitBound : Obligations.BusyWaitBound := by
  intro h s
  obtain ⟨hend, -⟩ := busyWait_ge h s
  have hfirst : s.clk ≤ nowValue s := Nat.le_add_right _ _
  exact ⟨busyWait_deadline h s, hend, (Nat.add_le_add_right hfirst h).trans hend, busyWait_eq h s⟩

/-! ### OSETUSTEP -/

/-- An operand that is none of 1, 2, 4, 8 names no mode (spec/45_motion.md R242). -/
theorem modeOf_eq_none {m : Field8} (h : m ∉ [1#8, 2#8, 4#8, 8#8]) : modeOf m = none := by
  simp only [List.mem_cons, List.not_mem_nil, or_false, not_or, ← BitVec.toNat_inj] at h
  obtain ⟨h1, h2, h4, h8⟩ := h
  unfold modeOf
  split <;> simp_all

/-- The four rows of the mode table (spec/45_motion.md R241, R242). -/
theorem modeOf_row {c : UStepCode} {m : Field8} {mode : UStepMode} {code : BitVec 2}
    (h : (m, mode, code) ∈ [(1#8, .m1, c.c1), (2#8, .m2, c.c2), (4#8, .m4, c.c4), (8#8, .m8, c.c8)]) :
    modeOf m = some mode ∧ ustepCodeOf c mode = code := by
  simp only [List.mem_cons, List.not_mem_nil, or_false, Prod.mk.injEq] at h
  obtain ⟨rfl, rfl, rfl⟩ | ⟨rfl, rfl, rfl⟩ | ⟨rfl, rfl, rfl⟩ | ⟨rfl, rfl, rfl⟩ := h <;> exact ⟨rfl, rfl⟩

/-- OSETUSTEP of a mode writes both mode lines and then the shadow (spec/45_motion.md R242). -/
theorem exec_osetustep {m : Field8} {mode : UStepMode} (hmode : modeOf m = some mode) (s : State) :
    exec (.osetustep m) s = finish (((writeLevel s.sig.ms1 ((ustepCodeOf s.cfg.ustepCode mode).getLsbD 0)
      (withShadow none (enter .run s))).andThen fun _ t =>
        writeLevel t.sig.ms2 ((ustepCodeOf s.cfg.ustepCode mode).getLsbD 1) t).andThen fun _ t =>
          .done [] (withShadow (some mode) t)) := by
  rw [exec, execOsetustep, hmode, andThen_andThen]
  rfl

/-- Two granted writes of lines, one after the other: what they leave. -/
theorem rmwDone_twice (g1 g2 : Line) (v w : Bool) (s : State) : rmwDone .dout g2 w (rmwDone .dout g1 v s) = { accessed 4 s with
    dout := rmwFile (rmwFile s.dout g1 v) g2 w
    trace := s.trace ++ [.read (regAddr s.cfg (bankOf g1) .dout) (s.dout.get (bankOf g1)),
      .write (regAddr s.cfg (bankOf g1) .dout) (rmwWord s.dout g1 v),
      .read (regAddr s.cfg (bankOf g2) .dout) ((rmwFile s.dout g1 v).get (bankOf g2)),
      .write (regAddr s.cfg (bankOf g2) .dout) (rmwWord (rmwFile s.dout g1 v) g2 w)] } := by
  simp [rmwDone, Nat.add_assoc]

/-- A granted write of a line, then access `j` of another refused: what they leave. -/
theorem rmwRefused_rmwDone (g1 g2 : Line) (v : Bool) (j : Nat) (s : State) :
    rmwRefused .dout g2 j (rmwDone .dout g1 v s) = { accessed (2 + j + 1) s with
      dout := rmwFile s.dout g1 v
      trace := s.trace ++ ([.read (regAddr s.cfg (bankOf g1) .dout) (s.dout.get (bankOf g1)),
          .write (regAddr s.cfg (bankOf g1) .dout) (rmwWord s.dout g1 v)]
        ++ ((if j = 0 then [] else [.read (regAddr s.cfg (bankOf g2) .dout) ((rmwFile s.dout g1 v).get (bankOf g2))])
          ++ [.accessFailed (regAddr s.cfg (bankOf g2) .dout)])) } := by
  rw [Nat.add_assoc, ← accessed_accessed, ← List.append_assoc]
  rfl

/-- The lines after both mode lines are written, MS2 after MS1: the two are different (spec/45_motion.md R242). -/
theorem lineBit_modeLines {s : State} (hne : s.sig.ms1 ≠ s.sig.ms2) (r : Vector Word 6) (v w : Bool) (x : Line) :
    lineBit (rmwFile (rmwFile r s.sig.ms1 v) s.sig.ms2 w) x =
      if x = s.sig.ms1 then v else if x = s.sig.ms2 then w else lineBit r x := by
  rw [lineBit_rmwFile, lineBit_rmwFile]
  by_cases h1 : x = s.sig.ms1
  · rw [if_pos h1, if_neg fun h2 => hne (h1.symm.trans h2), if_pos h1]
  · rw [if_neg h1, if_neg h1]

/-- OSETUSTEP when its access number `k` is the first refused (spec/45_motion.md R242, spec/60_exceptions.md R313). -/
theorem exec_osetustep_refused {s : State} {m : Field8} {mode : UStepMode} {k : Nat} (hmode : modeOf m = some mode)
    (hm : s.lc = .mapped) (hk : k < 4) (h : accessesGranted k s) (hn : ¬ accessesGranted (k + 1) s) :
    exec (.osetustep m) s = if k < 2 then
      .next (afterDeviceFault (.deviceIo (.register (regAddr s.cfg (bankOf s.sig.ms1) .dout)))
        (rmwRefused .dout s.sig.ms1 k (withShadow none (enter .run s))))
    else .next (afterDeviceFault (.deviceIo (.register (regAddr s.cfg (bankOf s.sig.ms2) .dout)))
      (rmwRefused .dout s.sig.ms2 (k - 2) (rmwDone .dout s.sig.ms1 ((ustepCodeOf s.cfg.ustepCode mode).getLsbD 0)
        (withShadow none (enter .run s))))) := by
  have hwrites := writeLevels_refused (s := withShadow none (enter .run s)) hm hk h hn s.sig.ms1
    ((ustepCodeOf s.cfg.ustepCode mode).getLsbD 0) (fun t => t.sig.ms2)
    fun _ => (ustepCodeOf s.cfg.ustepCode mode).getLsbD 1
  rw [exec_osetustep hmode, hwrites]
  split
  · rw [andThen_raised, finish_deviceFault rfl]
    rfl
  · rw [andThen_raised, finish_deviceFault rfl, rmwDone_sig]
    rfl

theorem exec_osetustep_unmapped {s : State} {m : Field8} {mode : UStepMode} (hmode : modeOf m = some mode)
    (hm : s.lc ≠ .mapped) : exec (.osetustep m) s =
      .next (afterDeviceFault (.resourceAbsent .gpio) (withShadow none (enter .run s))) := by
  have hwrite := writeLevel_unmapped (s := withShadow none (enter .run s)) hm
  rw [exec_osetustep hmode, hwrite, andThen_raised, andThen_raised, finish_deviceFault rfl]

/-- Settles O42: both lines are written when the four accesses are granted (`modeSet`); a refused access stops the two writes where
it stands (`exec_osetustep_refused`). -/
theorem osetustep : Obligations.Osetustep := by
  refine ⟨fun _ => ofFields_a_only .., fun s m hbad => ?_, ?_⟩
  · rw [exec, execOsetustep, modeOf_eq_none hbad]
    rfl
  intro s m mode code hrow hne g1 g2 a1 a2 old
  obtain ⟨hmode, hcode⟩ := modeOf_row hrow
  have hbefore := rmwFile_get_bank s.dout g1 (code.getLsbD 0) (bankOf g2)
  have hfirst := bitWritten_rmwWord s.dout g1 (code.getLsbD 0)
  refine ⟨fun hm h => ?_, fun k hk hm h hn => ?_, exec_osetustep_unmapped hmode⟩
  · have hexec := exec_osetustep_granted hmode hm h
    have hset := rmwDone_twice g1 g2 (code.getLsbD 0) (code.getLsbD 1) (withShadow none (enter .run s))
    rw [modeSet, modeLinesWritten, hcode] at hexec
    refine ⟨_, _, _, _, hexec, fun x => lineBit_modeLines hne s.dout _ _ x, hfirst, hbefore, bitWritten_rmwWord _ g2 _, ?_⟩
    refine (congrArg (fun u => answered [0x00000000#32] (withShadow (some mode) u)) hset).trans ?_
    rw [← trace_run]
    rfl
  · have hexec := exec_osetustep_refused hmode hm hk h hn
    rw [hcode] at hexec
    by_cases hk2 : k < 2
    · rw [if_pos hk2] at hexec
      have hline (x : Line) : ¬ (x = g1 ∧ 2 ≤ k) := fun hx => absurd hx.2 (not_le.2 hk2)
      refine ⟨_, _, _, hexec, fun x => ?_, hfirst, hbefore, ?_⟩
      · rw [if_neg (hline x)]
        simp
      · simp only [if_pos hk2, List.cons_append, List.nil_append]
        rw [← trace_run]
        obtain rfl | rfl : k = 0 ∨ k = 1 := by omega
        all_goals rfl
    · obtain ⟨j, rfl⟩ := Nat.exists_eq_add_of_le (not_lt.1 hk2)
      rw [if_neg hk2, Nat.add_sub_cancel_left, rmwRefused_rmwDone] at hexec
      refine ⟨_, _, _, hexec, fun x => (lineBit_rmwFile s.dout g1 x _).trans ?_, hfirst, hbefore, ?_⟩
      · simp only [Nat.le_add_right, and_true]
      · simp only [if_neg hk2, List.cons_append, List.nil_append]
        rw [← trace_run]
        obtain rfl | rfl : j = 0 ∨ j = 1 := by omega
        all_goals rfl

/-! ### OGETUSTEP -/

/-- The mode whose code two levels show, as a row of the mode table (spec/45_motion.md R241, R243). -/
theorem modeWord_row {c : UStepCode} {word : Word} {mode : UStepMode} {code : BitVec 2}
    (h : (word, mode, code) ∈ [(1#32, .m1, c.c1), (2#32, .m2, c.c2), (4#32, .m4, c.c4), (8#32, .m8, c.c8)]) :
    modeWord mode = word ∧ ustepCodeOf c mode = code := by
  simp only [List.mem_cons, List.not_mem_nil, or_false, Prod.mk.injEq] at h
  obtain ⟨rfl, rfl, rfl⟩ | ⟨rfl, rfl, rfl⟩ | ⟨rfl, rfl, rfl⟩ | ⟨rfl, rfl, rfl⟩ := h <;> exact ⟨rfl, rfl⟩

/-- What OGETUSTEP does with the two levels it read (spec/45_motion.md R243). -/
def modeAnswer (b₀ b₁ : Bool) (s : State) : Res (List Word) :=
  .done [modeWord (modeOfCode s.cfg.ustepCode (codeOfLevels b₀ b₁))]
    (withShadow (some (modeOfCode s.cfg.ustepCode (codeOfLevels b₀ b₁))) s)

theorem exec_ogetustep (s : State) : exec .ogetustep s = finish ((readLevel s.sig.ms1 (enter .run s)).andThen fun b₀ t =>
    (readLevel t.sig.ms2 t).andThen fun b₁ u => modeAnswer b₀ b₁ u) := rfl

/-- The second read samples pads of its own: it sees what stands after the first draw (spec/10_state.md R51). -/
theorem lineLevel_second (g h : Line) (s : State) : lineLevel h (readDone g (enter .run s)) = seenLevel h (tookPads s) := by
  rw [lineLevel_eq]
  rfl

section Mapped

variable {s : State} (hm : s.lc = .mapped)

include hm

/-- OGETUSTEP with its first read refused. -/
theorem exec_ogetustep_first_refused (h : accessOk s = false) : exec .ogetustep s =
    .next (afterDeviceFault (.deviceIo (.register (regAddr s.cfg (bankOf s.sig.ms1) .din)))
      (logEvent (.accessFailed (regAddr s.cfg (bankOf s.sig.ms1) .din)) (tookAccess (enter .run s)))) := by
  have hfirst := readLevel_refused (s := enter .run s) hm h s.sig.ms1
  rw [exec_ogetustep, hfirst, andThen_raised, finish_deviceFault rfl]
  rfl

/-- OGETUSTEP once its first read is granted. -/
theorem exec_ogetustep_first (h : accessOk s = true) : exec .ogetustep s =
    finish ((readLevel s.sig.ms2 (readDone s.sig.ms1 (enter .run s))).andThen fun b₁ u =>
      modeAnswer (seenLevel s.sig.ms1 s) b₁ u) := by
  have hfirst := readLevel_granted (s := enter .run s) hm h s.sig.ms1
  rw [exec_ogetustep, hfirst, andThen_done, seenLevel_eq]
  rfl

/-- OGETUSTEP with its second read refused. -/
theorem exec_ogetustep_second_refused (h : accessOk s = true) (h' : accessOk (tookAccess s) = false) : exec .ogetustep s =
    .next (afterDeviceFault (.deviceIo (.register (regAddr s.cfg (bankOf s.sig.ms2) .din)))
      (logEvent (.accessFailed (regAddr s.cfg (bankOf s.sig.ms2) .din)) (tookAccess (readDone s.sig.ms1 (enter .run s))))) := by
  have hsecond := readLevel_refused (s := readDone s.sig.ms1 (enter .run s)) hm h' s.sig.ms2
  rw [exec_ogetustep_first hm h, hsecond, andThen_raised, finish_deviceFault rfl]
  rfl

/-- OGETUSTEP with both reads granted: the mode of the levels seen (spec/45_motion.md R243). -/
theorem exec_ogetustep_granted (h : accessOk s = true) (h' : accessOk (tookAccess s) = true) {mode : UStepMode}
    (hmode : modeOfCode s.cfg.ustepCode (codeOfLevels (seenLevel s.sig.ms1 s) (seenLevel s.sig.ms2 (tookPads s))) = mode) :
    exec .ogetustep s = .next (answered [0x00000000#32, modeWord mode] (modeGot mode s)) := by
  have hsecond := readLevel_granted (s := readDone s.sig.ms1 (enter .run s)) hm h' s.sig.ms2
  rw [exec_ogetustep_first hm h, hsecond, andThen_done, lineLevel_second]
  subst hmode
  rfl

end Mapped

theorem exec_ogetustep_unmapped {s : State} (hm : s.lc ≠ .mapped) :
    exec .ogetustep s = .next (afterDeviceFault (.resourceAbsent .gpio) (enter .run s)) := by
  have hfirst := readLevel_unmapped (s := enter .run s) hm
  rw [exec_ogetustep, hfirst, andThen_raised, finish_deviceFault rfl]

/-- The time of two accesses, one after the other. -/
theorem accessed_one_twice (s : State) : accessed 1 (accessed 1 s) = accessed 2 s := accessed_accessed 1 1 s

/-- What both reads leave, with their history (spec/45_motion.md R243). -/
theorem modeGot_eq (mode : UStepMode) (s : State) : modeGot mode s = { accessed 2 (enter .run s) with
    ustep := some mode
    env := { (accessed 2 s).env with pads := s.env.pads.drop 2 }
    trace := s.trace ++ [.phase .run, .read (regAddr s.cfg (bankOf s.sig.ms1) .din) (regValue (bankOf s.sig.ms1) .din s),
      .read (regAddr s.cfg (bankOf s.sig.ms2) .din) (regValue (bankOf s.sig.ms2) .din (tookPads s))] } := by
  rw [← accessed_one_twice, ← trace_run, List.append_cons]
  rfl

/-- What a granted read of data-in leaves and then an access refused: the pads were sampled once (log 13). -/
theorem refused_readDone (g : Line) (a : Word) (s : State) : logEvent (.accessFailed a) (tookAccess (readDone g s)) =
    { accessed 2 s with
      env := { (accessed 2 s).env with pads := s.env.pads.tail }
      trace := s.trace ++ [.read (regAddr s.cfg (bankOf g) .din) (regValue (bankOf g) .din s), .accessFailed a] } := by
  rw [← accessed_one_twice, List.append_cons]
  rfl

/-- Settles O43: the levels seen at the two reads show a mode's code, which is that mode's alone (`modeOfCode_code`); a refused read
ends the operation. -/
theorem ogetustep : Obligations.Ogetustep := by
  refine ⟨ofFields_eq .., ?_⟩
  intro s a1 a2 first second
  refine ⟨fun word mode code hvalid hrow hm h h1 h2 => ?_, fun hm => exec_ogetustep_unmapped hm, fun k hk hm h hn => ?_⟩
  · obtain ⟨rfl, hcode⟩ := modeWord_row hrow
    obtain ⟨hok, hg⟩ := (script_grants_succ _ _ _).1 h
    obtain ⟨hok', -⟩ := (script_grants_succ _ _ _).1 hg
    have hmode : modeOfCode s.cfg.ustepCode (codeOfLevels (seenLevel s.sig.ms1 s) (seenLevel s.sig.ms2 (tookPads s))) = mode := by
      rw [h1, h2, codeOfLevels_bits, ← hcode, modeOfCode_code hvalid]
    rw [exec_ogetustep_granted hm hok hok' hmode, modeGot_eq]
    rfl
  · have hrefused := script_refused h hn
    obtain rfl | rfl : k = 0 ∨ k = 1 := by omega
    · rw [exec_ogetustep_first_refused hm hrefused]
      simp only [List.take_zero, List.append_nil, List.cons_append, List.nil_append]
      rw [← trace_run]
      rfl
    · obtain ⟨hok, -⟩ := (script_grants_succ _ _ _).1 h
      rw [exec_ogetustep_second_refused hm hok hrefused, refused_readDone, trace_run]
      rfl

end Sys2Proof.Machine
end

section
/-! PROOFS. OPHRESET and OSTEP1 with their accesses granted or one of them refused, and the checks of OSTEP1
(spec/45_motion.md R245, R250, spec/60_exceptions.md R310, R313). -/

namespace Sys2Proof.Machine

/-! ### OPHRESET -/

/-- The ticks of half a period of the phase reset (spec/45_motion.md R250). -/
def resetTicks (s : State) : Nat := halfTicks s.cfg.clkHz s.cfg.phaseResetHz

/-- The state in which OPHRESET comes to its second write: the line low, the wait over (spec/45_motion.md R250). -/
def phaseLow (s : State) : State :=
  enter .prHigh (halfPulse .prWait s.sig.phaseReset false (resetTicks s) (enter .prLow s))

@[simp] theorem phaseLow_cfg (s : State) : (phaseLow s).cfg = s.cfg := by simp [phaseLow, halfPulse]
@[simp] theorem phaseLow_lc (s : State) : (phaseLow s).lc = s.lc := by simp [phaseLow, halfPulse]
theorem phaseLow_accessOk (s : State) : (phaseLow s).env.accessOk = s.env.accessOk.drop 2 := by simp [phaseLow, halfPulse]

/-- The accesses of OPHRESET's second write come after those of its first. -/
theorem accessesGranted_phaseLow (n : Nat) (s : State) :
    accessesGranted (2 + n) s ↔ accessesGranted 2 s ∧ accessesGranted n (phaseLow s) := by
  rw [accessesGranted, script_grants_add, ← phaseLow_accessOk]

/-- What the first half of OPHRESET changes and shows, the clock's part named (spec/45_motion.md R247, R250). -/
theorem phaseLow_shape (s : State) : ∃ t0 e0 ticks,
    phaseLow s = { accessed 2 s with
      dout := rmwFile s.dout s.sig.phaseReset false
      seq := .prHigh
      deadline := t0 + resetTicks s
      clk := e0
      env := { (accessed 2 s).env with ticks := ticks }
      trace := s.trace ++ [.phase .prLow,
        .read (regAddr s.cfg (bankOf s.sig.phaseReset) .dout) (s.dout.get (bankOf s.sig.phaseReset)),
        .write (regAddr s.cfg (bankOf s.sig.phaseReset) .dout) (rmwWord s.dout s.sig.phaseReset false),
        .phase .prWait, .wait t0 (t0 + resetTicks s) e0, .phase .prHigh] } ∧
    s.clk ≤ t0 ∧ t0 + resetTicks s ≤ e0 := by
  obtain ⟨t0, e0, ticks, heq, hbegin, hend⟩ :=
    halfPulse_shape .prWait s.sig.phaseReset false (resetTicks s) (enter .prLow s)
  refine ⟨t0, e0, ticks, (congrArg (enter .prHigh) heq).trans ?_, hbegin, hend⟩
  simp [enter, logEvent]

theorem exec_ophreset (s : State) : exec .ophreset s =
    finish ((writeLevel s.sig.phaseReset false (enter .prLow s)).andThen fun _ t =>
      (writeLevel t.sig.phaseReset true (enter .prHigh (busyWait (resetTicks t) (enter .prWait t)))).andThen fun _ u =>
        .done [] u) := rfl

theorem exec_ophreset_unmapped {s : State} (hm : s.lc ≠ .mapped) :
    exec .ophreset s = .next (afterDeviceFault (.resourceAbsent .gpio) (enter .prLow s)) := by
  have hwrite := writeLevel_unmapped (s := enter .prLow s) hm
  rw [exec_ophreset, hwrite, andThen_raised, finish_deviceFault rfl]

section Mapped

variable {s : State} (hm : s.lc = .mapped)

include hm

/-- OPHRESET when access `k` of its first write is refused. -/
theorem exec_ophreset_refused {k : Nat} (hk : k < 2) (h : accessesGranted k s) (hn : ¬ accessesGranted (k + 1) s) :
    exec .ophreset s = .next (afterDeviceFault (.deviceIo (.register (regAddr s.cfg (bankOf s.sig.phaseReset) .dout)))
      (rmwRefused .dout s.sig.phaseReset k (enter .prLow s))) := by
  have hwrite := writeLevel_refused (s := enter .prLow s) hm hk h hn s.sig.phaseReset false
  rw [exec_ophreset, hwrite, andThen_raised, finish_deviceFault rfl]
  rfl

/-- OPHRESET once its first write is granted. -/
theorem exec_ophreset_low (h : accessesGranted 2 s) : exec .ophreset s =
    finish ((writeLevel s.sig.phaseReset true (phaseLow s)).andThen fun _ u => .done [] u) := by
  have hwrite := writeLevel_granted (s := enter .prLow s) hm h s.sig.phaseReset false
  rw [exec_ophreset, hwrite, andThen_done, rmwDone_sig]
  rfl

/-- OPHRESET with every access granted (spec/45_motion.md R250). -/
theorem exec_ophreset_granted (h : accessesGranted 4 s) :
    exec .ophreset s = .next (answered [0x00000000#32] (rmwDone .dout s.sig.phaseReset true (phaseLow s))) := by
  obtain ⟨hlow, hhigh⟩ := (accessesGranted_phaseLow 2 s).1 h
  have hwrite := writeLevel_granted ((phaseLow_lc s).trans hm) hhigh s.sig.phaseReset true
  rw [exec_ophreset_low hm hlow, hwrite, andThen_done, finish_done, respond_ok]

/-- OPHRESET when access `k` of its second write is refused: the line stays low (spec/45_motion.md R250). -/
theorem exec_ophreset_refused_high {k : Nat} (hk : k < 2) (h : accessesGranted (2 + k) s)
    (hn : ¬ accessesGranted (2 + k + 1) s) : exec .ophreset s =
      .next (afterDeviceFault (.deviceIo (.register (regAddr s.cfg (bankOf s.sig.phaseReset) .dout)))
        (rmwRefused .dout s.sig.phaseReset k (phaseLow s))) := by
  obtain ⟨hlow, hhigh⟩ := (accessesGranted_phaseLow k s).1 h
  have hrefused : ¬ accessesGranted (k + 1) (phaseLow s) := fun hg => hn ((accessesGranted_phaseLow (k + 1) s).2 ⟨hlow, hg⟩)
  have hwrite := writeLevel_refused ((phaseLow_lc s).trans hm) hk hhigh hrefused s.sig.phaseReset true
  rw [exec_ophreset_low hm hlow, hwrite, andThen_raised, finish_deviceFault rfl, phaseLow_cfg]

end Mapped

/-- The events of a refused read-modify-write, counted by the accesses granted before (spec/60_exceptions.md R313). -/
theorem rmwRefused_eq {k : Nat} (hk : k < 2) (g : Line) (s : State) : rmwRefused .dout g k s = { accessed (k + 1) s with
    trace := s.trace ++ ([.read (regAddr s.cfg (bankOf g) .dout) (s.dout.get (bankOf g))].take k
      ++ [.accessFailed (regAddr s.cfg (bankOf g) .dout)]) } := by
  obtain rfl | rfl : k = 0 ∨ k = 1 := by omega
  all_goals rfl

/-- What an operation records follows the phase it entered. -/
theorem trace_enter (p : Phase) (s : State) (es : List Event) : (enter p s).trace ++ es = s.trace ++ .phase p :: es :=
  List.append_assoc ..

/-- Settles O51: a refused access of the first write leaves the file, one of the second leaves the line low (`phaseLow`), and
granted the line goes back to 1. -/
theorem ophreset : Obligations.Ophreset := by
  refine ⟨ofFields_eq .., ?_⟩
  intro s g a old h
  have hlow : BitWritten old (rmwWord s.dout g false) g false := bitWritten_rmwWord s.dout g false
  obtain ⟨t0, e0, ticks, heq, hbegin, hend⟩ := phaseLow_shape s
  refine ⟨fun hm hg => ?_, fun k hk hm hg hn => ?_, fun k hk hm hg hn => ?_, exec_ophreset_unmapped⟩
  · have hexec := exec_ophreset_granted hm hg
    have hhigh : BitWritten (rmwWord s.dout g false) (rmwWord (rmwFile s.dout g false) g true) g true := by
      have hword := bitWritten_rmwWord (rmwFile s.dout g false) g true
      rwa [rmwFile_get] at hword
    rw [heq] at hexec
    refine ⟨_, t0, e0, _, _, hexec, fun x => ?_, hlow, hhigh, hbegin, hend, Nat.le_add_right _ _, ?_⟩
    · refine (lineBit_rmwFile (rmwFile s.dout g false) g x true).trans ?_
      rw [lineBit_rmwFile]
      split <;> rfl
    · simp [rmwDone, answered, rmwFile_get, resetTicks, g, a, old, h]
  · rw [exec_ophreset_refused hm hk hg hn, rmwRefused_eq hk, trace_enter]
    rfl
  · have hexec := exec_ophreset_refused_high hm hk hg hn
    rw [heq, rmwRefused_eq hk] at hexec
    refine ⟨_, t0, e0, _, hexec, fun x => lineBit_rmwFile s.dout g x false, hlow, hbegin, hend, Nat.le_add_right _ _, ?_⟩
    obtain rfl | rfl : k = 0 ∨ k = 1 := by omega
    all_goals simp [afterDeviceFault, answered, rmwFile_get, resetTicks, g, a, old, h]

/-! ### OSTEP1 with every access granted -/

/-- The frame of an operation with two operands and an immediate (spec/30_encoding.md R101, format FS). -/
theorem ofFields_ab (op a b : Field8) (w : Word) : Frame.ofFields op a b w 0 =
    { w0 := (op.zeroExtend 32 <<< 24) ||| (a.zeroExtend 32 <<< 16) ||| (b.zeroExtend 32 <<< 8), w1 := w, w2 := 0 } :=
  ofFields_eq ..

/-- A completed pulse is the pulse, then the release and the yield (spec/45_motion.md R245). -/
theorem pulseCompleted_eq (d : Drive) (level : Option Bool) (h : Nat) (s : State) : pulseCompleted d level h s =
    yieldCpu (release (enter .stYield (pulseDone (s.sig.step.get d) h (pulseDirected d level s)))) := rfl

/-- The lines after step 2 (spec/45_motion.md R245). -/
theorem lineBit_pulseDirected (d : Drive) (level : Option Bool) (s : State) (x : Line) :
    lineBit (pulseDirected d level s).dout x =
      match level with
      | some v => if x = s.sig.dir.get d then v else lineBit s.dout x
      | none => lineBit s.dout x := by
  cases level with
  | none => rfl
  | some v => exact lineBit_rmwFile s.dout (s.sig.dir.get d) x v

/-- What the accesses of the direction line leave, named by their number (spec/45_motion.md R245, steps 1 and 2). -/
theorem pulseDirected_eq (d : Drive) (level : Option Bool) (s : State) : pulseDirected d level s =
    { accessed (dirAccesses level) s with
      dout := (pulseDirected d level s).dout
      seq := .stDir
      prio := if prioGranted s then .elevated else s.prio
      prioFails := if prioGranted s then s.prioFails else s.prioFails + 1
      env := { (accessed (dirAccesses level) s).env with prioGranted := s.env.prioGranted.tail }
      trace := (pulseDirected d level s).trace } := by
  cases level <;> rfl

/-- What OSTEP1 leaves, every access granted, and how long its two waits last (spec/45_motion.md R245, R247). -/
theorem pulseCompleted_record (d : Drive) (level : Option Bool) (h : Nat) (s : State) : ∃ t0 e0 t1 e1,
    s.clk ≤ t0 ∧ t0 + h ≤ e0 ∧ e0 ≤ t1 ∧ t1 + h ≤ e1 ∧ pulseCompleted d level h s = { accessed (dirAccesses level + 4) s with
      dout := (pulseCompleted d level h s).dout
      seq := .stYield
      prio := .normal
      prioFails := if prioGranted s then s.prioFails else s.prioFails + 1
      deadline := t1 + h
      clk := e1
      env :=
        { (accessed (dirAccesses level + 4) s).env with
          prioGranted := s.env.prioGranted.tail
          ticks := (pulseCompleted d level h s).env.ticks }
      trace := (pulseDirected d level s).trace ++
        [.phase .stHigh,
          .read (regAddr s.cfg (bankOf (s.sig.step.get d)) .dout) ((pulseDirected d level s).dout.get (bankOf (s.sig.step.get d))),
          .write (regAddr s.cfg (bankOf (s.sig.step.get d)) .dout) (highWord d level s), .phase .stWait1,
          .wait t0 (t0 + h) e0, .phase .stLow,
          .read (regAddr s.cfg (bankOf (s.sig.step.get d)) .dout) (highWord d level s),
          .write (regAddr s.cfg (bankOf (s.sig.step.get d)) .dout) (lowWord d level h s), .phase .stWait2,
          .wait t1 (t1 + h) e1, .phase .stYield, .yielded] } := by
  obtain ⟨t0, e0, t1, e1, ticks, heq, hbegin, hwait, hnext, hend⟩ :=
    pulseDone_shape (s.sig.step.get d) h (pulseDirected d level s)
  refine ⟨t0, e0, t1, e1, (pulseDirected_clk d level s).trans hbegin, hwait, hnext, hend, ?_⟩
  rw [pulseCompleted_eq, heq]
  cases level <;> simp [enter, logEvent, yieldCpu, release, dirAccesses, highWord, lowWord, pulseHigh_dout, pulseDirected,
    directed, pulseStarted, rmwDone]

/-- The pulse leaves the step line low and the direction line at its level (spec/45_motion.md R249). -/
theorem lineBit_pulseCompleted (d : Drive) (level : Option Bool) (h : Nat) (s : State) (x : Line) :
    lineBit (pulseCompleted d level h s).dout x =
      if x = s.sig.step.get d then false
      else match level with
        | some v => if x = s.sig.dir.get d then v else lineBit s.dout x
        | none => lineBit s.dout x := by
  have hdout : (pulseCompleted d level h s).dout = (pulseDone (s.sig.step.get d) h (pulseDirected d level s)).dout := by
    rw [pulseCompleted_eq]
    simp
  rw [hdout, pulseDone_lines, lineBit_pulseDirected]

/-- The word step 2 writes has the direction line at its level (spec/45_motion.md R245). -/
theorem bitWritten_dirWord {d : Drive} {level : Option Bool} {v : Bool} (hv : level = some v) (s : State) :
    BitWritten (s.dout.get (bankOf (s.sig.dir.get d))) (dirWord d level s) (s.sig.dir.get d) v := by
  subst hv
  exact bitWritten_rmwWord s.dout (s.sig.dir.get d) v

theorem bitWritten_lowWord (d : Drive) (level : Option Bool) (h : Nat) (s : State) :
    BitWritten (highWord d level s) (lowWord d level h s) (s.sig.step.get d) false := by
  rw [← pulseHigh_bank d level h s]
  exact bitWritten_rmwWord _ _ false

/-- The accesses of a whole pulse (spec/45_motion.md R245). -/
theorem pulseAccesses (level : Option Bool) : (if level.isSome then 6 else 4) = dirAccesses level + 4 := by cases level <;> rfl

/-- Settles O47: the pulse completes (`exec_ostep1_granted`) with the record `pulseCompleted_record` names. -/
theorem ostep1 : Obligations.Ostep1 := by
  refine ⟨fun d r f => ofFields_ab 0x52 d r f, ?_⟩
  intro s d dir f level hmem hf hm hg gd g ad a h
  rw [pulseAccesses] at hg ⊢
  obtain ⟨sd, hdir, hlevel⟩ := stepDirOf_operand hmem
  have hexec := exec_ostep1_granted hdir hlevel hf hm d hg
  obtain ⟨t0, e0, t1, e1, hbegin, hwait, hnext, hend, hrecord⟩ := pulseCompleted_record d level h s
  rw [pulseDirected_trace, List.append_assoc] at hrecord
  exact ⟨_, dirWord d level s, _, _, _, t0, e0, t1, e1, hexec, fun x => lineBit_pulseCompleted d level h s x,
    fun v hv => bitWritten_dirWord hv s, pulseDirected_bank d level s (bankOf g), bitWritten_rmwWord _ g true,
    bitWritten_lowWord d level h s, hbegin, hwait, hnext, hend, (congrArg (answered [0x00000000#32]) hrecord).trans rfl⟩

/-! ### The checks of OSTEP1 -/

/-- The operands that name a step direction (spec/45_motion.md R245). -/
theorem stepDirOf_some {dir : Field8} (h : dir.toNat ≤ 2) : ∃ sd, stepDirOf dir = some sd := by
  obtain h | h | h : dir.toNat = 0 ∨ dir.toNat = 1 ∨ dir.toNat = 2 := by omega
  · exact ⟨.none, by simp [stepDirOf, h]⟩
  · exact ⟨.extend, by simp [stepDirOf, h]⟩
  · exact ⟨.retract, by simp [stepDirOf, h]⟩

theorem stepDirOf_eq_none {dir : Field8} (h : 2 < dir.toNat) : stepDirOf dir = none := by
  unfold stepDirOf
  split <;> simp_all

/-- An unknown direction or a frequency of 0 is refused (spec/45_motion.md R245). -/
theorem exec_ostep1_badArg {dir : Field8} {f : Word} (h : 2 < dir.toNat ∨ f = 0) (d : Field8) (s : State) :
    exec (.ostep1 d dir f) s = .next (answered [0x01030000#32] s) := by
  rw [exec, execOstep1]
  by_cases hdir : 2 < dir.toNat
  · rw [stepDirOf_eq_none hdir, finish_rejected, respond_badArg]
  · obtain ⟨sd, hsd⟩ := stepDirOf_some (not_lt.1 hdir)
    rw [hsd]
    dsimp only
    rw [if_pos (h.resolve_left hdir), finish_rejected, respond_badArg]

/-- With its other arguments good OSTEP1 checks the drive (spec/45_motion.md R245). -/
theorem exec_ostep1_checked {dir : Field8} {sd : StepDir} (hdir : stepDirOf dir = some sd) {f : Word} (hf : f ≠ 0) (d : Field8)
    (s : State) : exec (.ostep1 d dir f) s = finish ((checkIndex d 6 s).andThen fun d t => stepPulse d sd f.toNat t) := by
  rw [exec, execOstep1, hdir]
  exact congrArg finish (if_neg hf)

theorem accesses_pulseStarted (s : State) :
    (pulseStarted s).trace.filter Event.isAccess = s.trace.filter Event.isAccess := by simp [pulseStarted, Event.isAccess]

/-- Unmapped, the pulse ends at its first write, after the elevation (spec/45_motion.md R245). -/
theorem stepPulse_unmapped {d : Drive} {sd : StepDir} {freq : Nat} {s : State} (hm : s.lc ≠ .mapped) :
    ∃ u, stepPulse d sd freq s = .raised (.resourceAbsent .gpio) u ∧
      u = { pulseStarted s with seq := u.seq, trace := u.trace } ∧
      u.trace.filter Event.isAccess = s.trace.filter Event.isAccess := by
  have hstarted := accesses_pulseStarted s
  unfold stepPulse
  simp only [pulseStarted_eq]
  unfold writeDirection
  cases dirLevel (pulseStarted s).cfg sd with
  | none =>
    have hwrite := writeLevel_unmapped (s := enter .stHigh (pulseStarted s)) hm
    refine ⟨enter .stHigh (pulseStarted s), ?_, rfl, ?_⟩
    · dsimp only
      rw [andThen_done, hwrite, andThen_raised]
    · rw [enter_trace, List.filter_append, hstarted]
      exact List.append_nil _
  | some v =>
    have hwrite := writeLevel_unmapped (s := pulseStarted s) hm
    refine ⟨pulseStarted s, ?_, rfl, hstarted⟩
    dsimp only
    rw [hwrite, andThen_raised]

/-! ### OSTEP1 with an access refused -/

/-- The accesses made so far. -/
def accessCount (s : State) : Nat := (s.trace.filter Event.isAccess).length

theorem accessCount_append {s t : State} {es : List Event} (h : t.trace = s.trace ++ es) :
    accessCount t = accessCount s + (es.filter Event.isAccess).length := by
  rw [accessCount, h, List.filter_append, List.length_append]
  rfl

theorem accessCount_enter (p : Phase) (s : State) : accessCount (enter p s) = accessCount s := accessCount_append (enter_trace p s)

theorem accessCount_pulseDirected (d : Drive) (level : Option Bool) (s : State) :
    accessCount (pulseDirected d level s) = accessCount s + dirAccesses level := by
  rw [accessCount_append (pulseDirected_trace d level s)]
  cases level <;> rfl

theorem accessCount_pulseHigh (d : Drive) (level : Option Bool) (h : Nat) (s : State) :
    accessCount (pulseHigh d level h s) = accessCount s + dirAccesses level + 2 := by
  obtain ⟨t0, -, -, -, htrace⟩ := pulseHigh_shape d level h s
  rw [accessCount_append htrace, accessCount_pulseDirected]
  rfl

end Sys2Proof.Machine
end

section
/-! PROOFS. The checks of OSTEP1, and what each refused access leaves (spec/45_motion.md R245, spec/60_exceptions.md R310, R313). -/

namespace Sys2Proof.Machine

/-! ### What an interrupted pulse leaves of the state -/

/-- A state OSTEP1 reaches from `s` with `n` accesses made: only the answers of the platform, the elevation, the register file of the
levels, the clock with its deadline, the history and the progress are new (spec/45_motion.md R245). -/
def Pulsing (n : Nat) (s t : State) : Prop :=
  ∃ dout seq prio deadline clk ticks trace, t =
    { accessed n s with
      dout := dout
      seq := seq
      prio := prio
      prioFails := if prioGranted s then s.prioFails else s.prioFails + 1
      deadline := deadline
      clk := clk
      env := { (accessed n s).env with prioGranted := s.env.prioGranted.tail, ticks := ticks }
      trace := trace }

theorem pulsing_pulseStarted (s : State) : Pulsing 0 s (pulseStarted s) := ⟨_, _, _, _, _, _, _, rfl⟩

theorem Pulsing.enter {n : Nat} {s t : State} (h : Pulsing n s t) (p : Phase) : Pulsing n s (enter p t) := by
  obtain ⟨_, _, _, _, _, _, _, rfl⟩ := h
  exact ⟨_, _, _, _, _, _, _, rfl⟩

theorem Pulsing.rmwDone {n : Nat} {s t : State} (h : Pulsing n s t) (g : Line) (v : Bool) :
    Pulsing (n + 2) s (rmwDone .dout g v t) := by
  obtain ⟨_, _, _, _, _, _, _, rfl⟩ := h
  rw [Pulsing, ← accessed_accessed]
  exact ⟨_, _, _, _, _, _, _, rfl⟩

theorem Pulsing.rmwRefused {n : Nat} {s t : State} (h : Pulsing n s t) (g : Line) (k : Nat) :
    Pulsing (n + (k + 1)) s (rmwRefused .dout g k t) := by
  obtain ⟨_, _, _, _, _, _, _, rfl⟩ := h
  rw [Pulsing, ← accessed_accessed]
  exact ⟨_, _, _, _, _, _, _, rfl⟩

theorem Pulsing.halfPulse {n : Nat} {s t : State} (h : Pulsing n s t) (p : Phase) (g : Line) (v : Bool) (ticks : Nat) :
    Pulsing (n + 2) s (halfPulse p g v ticks t) := by
  obtain ⟨t0, e0, left, heq, -, -⟩ := halfPulse_shape p g v ticks t
  rw [heq]
  obtain ⟨_, _, _, _, _, _, _, rfl⟩ := h
  rw [Pulsing, ← accessed_accessed]
  exact ⟨_, _, _, _, _, _, _, rfl⟩

theorem pulsing_pulseDirected (d : Drive) (level : Option Bool) (s : State) :
    Pulsing (dirAccesses level) s (pulseDirected d level s) := by
  cases level with
  | none => exact pulsing_pulseStarted s
  | some v => exact (pulsing_pulseStarted s).rmwDone _ v

theorem pulsing_pulseHigh (d : Drive) (level : Option Bool) (h : Nat) (s : State) :
    Pulsing (dirAccesses level + 2) s (pulseHigh d level h s) :=
  (((pulsing_pulseDirected d level s).enter .stHigh).halfPulse ..).enter .stLow

/-- A device fault in the middle of a pulse: the answer, and the state named by the accesses made (spec/60_exceptions.md R310). -/
theorem Pulsing.afterDeviceFault_eq {n : Nat} {s t : State} (h : Pulsing n s t) (f : Raised) : afterDeviceFault f t =
    afterDeviceFault f
      { accessed n s with
        dout := (afterDeviceFault f t).dout
        prioFails := if prioGranted s then s.prioFails else s.prioFails + 1
        deadline := (afterDeviceFault f t).deadline
        clk := (afterDeviceFault f t).clk
        env :=
          { (accessed n s).env with prioGranted := s.env.prioGranted.tail, ticks := (afterDeviceFault f t).env.ticks }
        trace := (afterDeviceFault f t).trace } := by
  obtain ⟨_, _, _, _, _, _, _, rfl⟩ := h
  rfl

/-- No wait was begun: DEADLINE and the readings are those of before, and the clock moved on by the accesses alone. -/
def Waitless (n : Nat) (s t : State) : Prop := t.deadline = s.deadline ∧ t.clk = (later n s).clk ∧ t.env.ticks = s.env.ticks

theorem Waitless.rmwRefused {n k : Nat} {s t : State} (h : Waitless n s t) (hgaps : t.env.gaps = s.env.gaps.drop n) (g : Line) :
    Waitless (n + (k + 1)) s (rmwRefused .dout g k t) := by
  obtain ⟨hdeadline, hclk, hticks⟩ := h
  refine ⟨hdeadline, ?_, hticks⟩
  have hlater : (later (n + (k + 1)) s).clk = (later n s).clk + (s.env.gaps.drop n).total Config.freeGaps (k + 1) := by
    simp only [later, script_total_add, Nat.add_assoc]
  rw [hlater, ← hclk, ← hgaps]
  rfl

theorem Waitless.afterDeviceFault {n : Nat} {s t : State} (h : Waitless n s t) (f : Raised) :
    Waitless n s (afterDeviceFault f t) := h

theorem waitless_pulseStarted (s : State) : Waitless 0 s (pulseStarted s) := ⟨rfl, rfl, rfl⟩

theorem Waitless.enter {n : Nat} {s t : State} (h : Waitless n s t) (p : Phase) : Waitless n s (enter p t) := h

theorem waitless_pulseDirected (d : Drive) (level : Option Bool) (s : State) :
    Waitless (dirAccesses level) s (pulseDirected d level s) := by cases level <;> exact ⟨rfl, rfl, rfl⟩

theorem pulseDirected_gaps (d : Drive) (level : Option Bool) (s : State) :
    (pulseDirected d level s).env.gaps = s.env.gaps.drop (dirAccesses level) := by cases level <;> rfl

theorem dirAccesses_le (level : Option Bool) : dirAccesses level ≤ 2 := by cases level <;> simp [dirAccesses]

theorem pulseStarted_dout (s : State) : (pulseStarted s).dout = s.dout := rfl

/-! ### The three ranges of a refused access -/

section Outcomes

variable {s : State} {dir : Field8} {sd : StepDir} {level : Option Bool} {f : Word} (hdir : stepDirOf dir = some sd)
  (hlevel : dirLevel s.cfg sd = level) (hf : f ≠ 0) (hm : s.lc = .mapped) (d : Drive) {k : Nat}

include hdir hlevel hf hm

/-- OSTEP1 when access `k` of step 2 is the first refused. -/
theorem exec_ostep1_refused_direction (hk : k < dirAccesses level) (h : accessesGranted k s) (hn : ¬ accessesGranted (k + 1) s) :
    exec (.ostep1 (BitVec.ofNat 8 d.val) dir f) s =
      .next (afterDeviceFault (.deviceIo (.register (regAddr s.cfg (bankOf (s.sig.dir.get d)) .dout)))
        (rmwRefused .dout (s.sig.dir.get d) k (pulseStarted s))) := by
  subst hlevel
  have hwrite := writeDirection_refused (s := pulseStarted s) (d := d) hm hk h hn
  rw [exec_ostep1 hdir hf, stepPulse_refused_direction hwrite, finish_deviceFault rfl]
  rfl

/-- OSTEP1 when access `k` of step 3 is the first refused. -/
theorem exec_ostep1_refused_high (hk : k < 2) (h : accessesGranted (dirAccesses level + k) s)
    (hn : ¬ accessesGranted (dirAccesses level + k + 1) s) : exec (.ostep1 (BitVec.ofNat 8 d.val) dir f) s =
      .next (afterDeviceFault (.deviceIo (.register (regAddr s.cfg (bankOf (s.sig.step.get d)) .dout)))
        (rmwRefused .dout (s.sig.step.get d) k (enter .stHigh (pulseDirected d level s)))) := by
  obtain ⟨hfirst, hstep⟩ := (accessesGranted_pulseDirected d level s k).1 h
  have hrefused : ¬ accessesGranted (k + 1) (pulseDirected d level s) := fun hg =>
    hn ((accessesGranted_pulseDirected d level s (k + 1)).2 ⟨hfirst, hg⟩)
  have hwrite := writeDirection_pulseStarted (d := d) hlevel hm hfirst
  have hlc : (pulseDirected d level s).lc = .mapped := (pulseDirected_lc d level s).trans hm
  rw [exec_ostep1 hdir hf, stepPulse_refused_high hwrite hlc hk hstep hrefused, finish_deviceFault rfl, pulseDirected_sig,
    pulseDirected_cfg]

/-- OSTEP1 when access `k` of step 5 is the first refused, counted from the start (spec/45_motion.md R249 (5)). -/
theorem exec_ostep1_refused_fall (hk : k < 2) (h : accessesGranted (dirAccesses level + 2 + k) s)
    (hn : ¬ accessesGranted (dirAccesses level + 2 + k + 1) s) : exec (.ostep1 (BitVec.ofNat 8 d.val) dir f) s =
      .next (afterDeviceFault (.deviceIo (.register (regAddr s.cfg (bankOf (s.sig.step.get d)) .dout)))
        (rmwRefused .dout (s.sig.step.get d) k (pulseHigh d level (halfTicks s.cfg.clkHz f.toNat) s))) := by
  rw [Nat.add_assoc] at h
  rw [Nat.add_assoc, Nat.add_assoc, ← Nat.add_assoc 2] at hn
  obtain ⟨hfirst, hstep⟩ := (accessesGranted_pulseDirected d level s (2 + k)).1 h
  exact exec_ostep1_refused_low hdir hlevel hf hm d hk hfirst hstep fun hg =>
    hn ((accessesGranted_pulseDirected d level s (2 + k + 1)).2 ⟨hfirst, hg⟩)

end Outcomes

/-- The three places where access `k` of a pulse can stand: the direction line, the rising edge, the falling edge. -/
theorem pulseAccess_cases {first k : Nat} (h : k < first + 4) :
    k < first ∨ (∃ j < 2, k = first + j) ∨ ∃ j < 2, k = first + 2 + j := by
  obtain hlt | hhigh | hlow : k < first ∨ (first ≤ k ∧ k < first + 2) ∨ first + 2 ≤ k := by omega
  · exact .inl hlt
  · exact .inr (.inl ⟨k - first, by omega, by omega⟩)
  · exact .inr (.inr ⟨k - (first + 2), by omega, by omega⟩)

/-- The lines while the pulse is high (spec/45_motion.md R245). -/
theorem lineBit_pulseHigh (d : Drive) (level : Option Bool) (h : Nat) (s : State) (x : Line) :
    lineBit (pulseHigh d level h s).dout x =
      if x = s.sig.step.get d then true else lineBit (pulseDirected d level s).dout x := by
  rw [pulseHigh_dout, lineBit_rmwFile]

/-- Once the direction line's accesses are made, access 2 is past when there are any (spec/45_motion.md R245). -/
theorem lineBit_pulseDirected_counted (d : Drive) (level : Option Bool) (s : State) (x : Line) (k : Nat) :
    dirAccesses level ≤ k → lineBit (pulseDirected d level s).dout x =
      match level with
      | some v => if x = s.sig.dir.get d ∧ 2 ≤ k then v else lineBit s.dout x
      | none => lineBit s.dout x := by
  intro hk
  rw [lineBit_pulseDirected]
  cases level with
  | none => rfl
  | some v => simp only [show 2 ≤ k from hk, and_true]

/-- Settles O48: the checks end OSTEP1 before it makes an access, and a refused access leaves the state its step came to
(`pulseStarted`, `pulseDirected`, `pulseHigh`). -/
theorem ostep1Checks : Obligations.Ostep1Checks := by
  refine ⟨fun s d dir f => ⟨fun h => exec_ostep1_badArg h d s, fun hdir hf hd => ?_, fun hdir hf hd hm => ?_⟩, ?_⟩
  · obtain ⟨sd, hsd⟩ := stepDirOf_some hdir
    have hexec := exec_ostep1_checked hsd hf d s
    rw [checkIndex_out hd, andThen_raised, finish_raised, takeFault_halt rfl] at hexec
    exact ⟨_, hexec, rfl⟩
  · obtain ⟨sd, hsd⟩ := stepDirOf_some hdir
    obtain ⟨u, hpulse, heq, htrace⟩ := stepPulse_unmapped (d := ⟨d.toNat, hd⟩) (sd := sd) (freq := f.toNat) hm
    have hexec := exec_ostep1_checked hsd hf d s
    rw [checkIndex_in hd, andThen_done, hpulse, finish_deviceFault rfl] at hexec
    exact ⟨_, hexec, (congrArg (afterDeviceFault (.resourceAbsent .gpio)) heq).trans rfl, htrace⟩
  intro s d dir f level k hmem hf hm hg hn gd g first hk
  obtain ⟨sd, hdir, hlevel⟩ := stepDirOf_operand hmem
  have hfirst : first = dirAccesses level := rfl
  rw [hfirst] at hk ⊢
  obtain hlt | ⟨j, hj, rfl⟩ | ⟨j, hj, rfl⟩ := pulseAccess_cases hk
  · have hexec := exec_ostep1_refused_direction hdir hlevel hf hm d hlt hg hn
    have hpulse := (pulsing_pulseStarted s).rmwRefused gd k
    have htime := (waitless_pulseStarted s).rmwRefused (k := k) rfl gd
    have hfew : k < 2 := hlt.trans_le (dirAccesses_le level)
    rw [Nat.zero_add] at hpulse htime
    refine ⟨_, hexec, fun x => ?_, fun _ => htime.afterDeviceFault _, ?_, ?_⟩
    · rw [afterDeviceFault_dout, rmwRefused_dout, if_neg (by omega), pulseStarted_dout]
      simp only [not_le.2 hfew, and_false, if_false]
      cases level <;> rfl
    · refine (rmwRefused_accesses hfew _).trans ?_
      rw [accesses_pulseStarted]
    · rw [if_pos hlt]
      exact hpulse.afterDeviceFault_eq _
  · have hexec := exec_ostep1_refused_high hdir hlevel hf hm d hj hg hn
    have hpulse := ((pulsing_pulseDirected d level s).enter .stHigh).rmwRefused g j
    have htime := ((waitless_pulseDirected d level s).enter .stHigh).rmwRefused (k := j) (pulseDirected_gaps d level s) g
    refine ⟨_, hexec, fun x => ?_, fun _ => htime.afterDeviceFault _, ?_, ?_⟩
    · rw [afterDeviceFault_dout, rmwRefused_dout, enter_dout, if_neg (by omega)]
      exact lineBit_pulseDirected_counted d level s x _ (Nat.le_add_right _ _)
    · refine (rmwRefused_accesses hj _).trans ?_
      rw [← accessCount, accessCount_enter, accessCount_pulseDirected, accessCount, Nat.add_assoc]
    · rw [if_neg (by omega)]
      exact hpulse.afterDeviceFault_eq _
  · have hexec := exec_ostep1_refused_fall hdir hlevel hf hm d hj hg hn
    have hpulse := (pulsing_pulseHigh d level (halfTicks s.cfg.clkHz f.toNat) s).rmwRefused g j
    refine ⟨_, hexec, fun x => ?_, fun h => absurd h (by omega), ?_, ?_⟩
    · rw [afterDeviceFault_dout, rmwRefused_dout, lineBit_pulseHigh]
      by_cases hx : x = g
      · rw [if_pos hx, if_pos ⟨hx, Nat.le_add_right _ _⟩]
      · rw [if_neg hx, if_neg fun h => hx h.1]
        exact lineBit_pulseDirected_counted d level s x _ (by omega)
    · refine (rmwRefused_accesses hj _).trans ?_
      rw [← accessCount, accessCount_pulseHigh, accessCount, Nat.add_assoc, Nat.add_assoc, Nat.add_assoc]
    · rw [if_neg (by omega)]
      exact hpulse.afterDeviceFault_eq _

end Sys2Proof.Machine
end

section
/-! PROOFS. OSTEP1 and OMEASURE do the same whether priority elevation is granted or not (spec/45_motion.md R248). -/

namespace Sys2Proof.Machine

/-! ### A state with its elevation left out -/

/-- The state without what an elevation request can change: the priority, the count of failures, the answers still to come, and the
answer in the history (spec/45_motion.md R248). -/
def ungranted (s : State) : State :=
  { s with
    prio := .normal
    prioFails := 0
    env := { s.env with prioGranted := .empty }
    trace := s.trace.map Event.withoutGrant }

/-- The same of the state an operation's part ends in. -/
def ungrantedRes {α : Type} : Res α → Res α
  | .done a s => .done a (ungranted s)
  | .rejected r s => .rejected r (ungranted s)
  | .raised f s => .raised f (ungranted s)

@[simp] theorem withoutGrant_idem (e : Event) : e.withoutGrant.withoutGrant = e.withoutGrant := by cases e <;> rfl

@[simp] theorem withoutGrant_elevate (b : Bool) : (Event.elevate b).withoutGrant = .elevate false := rfl

@[simp] theorem ungranted_idem (s : State) : ungranted (ungranted s) = ungranted s := by
  simp [ungranted, Function.comp_def]

/-- A part of an operation whose outcome does not depend on the elevation, the elevation left out. -/
def Blind {α : Type} (f : State → Res α) : Prop := ∀ s, ungrantedRes (f (ungranted s)) = ungrantedRes (f s)

/-- A change of the state that does not depend on the elevation, the elevation left out. -/
def BlindStep (g : State → State) : Prop := ∀ s, ungranted (g (ungranted s)) = ungranted (g s)

theorem BlindStep.comp {f g : State → State} (hf : BlindStep f) (hg : BlindStep g) : BlindStep fun s => f (g s) := fun s => by
  rw [← hf (g (ungranted s)), hg s, hf (g s)]

theorem Blind.comp {α : Type} {f : State → Res α} {g : State → State} (hf : Blind f) (hg : BlindStep g) :
    Blind fun s => f (g s) := fun s => by
  rw [← hf (g (ungranted s)), hg s, hf (g s)]

/-- States that differ in the elevation alone go on alike. -/
theorem Blind.congr {α : Type} {f : State → Res α} (hf : Blind f) {s u : State} (h : ungranted s = ungranted u) :
    ungrantedRes (f s) = ungrantedRes (f u) := by rw [← hf s, h, hf u]

theorem Blind.andThen {α β : Type} {f : State → Res α} {g : α → State → Res β} (hf : Blind f) (hg : ∀ a, Blind (g a)) :
    Blind fun s => (f s).andThen (g · ·) := by
  intro s
  have h := hf s
  revert h
  dsimp only
  generalize f (ungranted s) = r
  generalize f s = q
  intro h
  cases r <;> cases q <;> simp only [ungrantedRes, Res.done.injEq, Res.rejected.injEq, Res.raised.injEq, reduceCtorEq] at h
  case done.done a t b u =>
    obtain ⟨rfl, htu⟩ := h
    exact (hg a).congr htu
  case rejected.rejected => simp [ungrantedRes, h]
  case raised.raised => simp [ungrantedRes, h]

theorem blind_done {α : Type} (a : α) : Blind (Res.done a) := fun s => by simp [ungrantedRes]

theorem blind_rejected {α : Type} (r : Reason) : Blind (Res.rejected (α := α) r) := fun s => by simp [ungrantedRes]

theorem blind_raised {α : Type} (f : Raised) : Blind (Res.raised (α := α) f) := fun s => by simp [ungrantedRes]

/-! ### The steps -/

theorem blindStep_logEvent (e : Event) : BlindStep (logEvent e) := fun s => by simp [ungranted, logEvent, Function.comp_def]

theorem blindStep_enter (p : Phase) : BlindStep (enter p) := fun s => by simp [ungranted, enter, logEvent, Function.comp_def]

/-- The answer to the request is all that differs (spec/45_motion.md R248). -/
theorem blindStep_elevate : BlindStep elevate := fun s => by
  rw [elevate_eq, elevate_eq]
  simp [ungranted, Function.comp_def]

theorem blindStep_release : BlindStep release := fun s => by simp [ungranted, release, Function.comp_def]

theorem blindStep_yieldCpu : BlindStep yieldCpu := blindStep_logEvent .yielded

theorem blindStep_busyWait (h : Nat) : BlindStep (busyWait h) := fun s => by
  simp [ungranted, busyWait, logEvent, tookNow, nowValue, Function.comp_def]

theorem blindStep_settle (w : Word) : BlindStep (settle w) := fun s => by
  simp [ungranted, settle, logEvent, elapse, Function.comp_def]

theorem blindStep_updateStats (f : Stats → Stats) : BlindStep (updateStats f) := fun s => by
  simp [ungranted, updateStats, Function.comp_def]

/-- The statistics engine, with the parameters of the state (spec/46_measurement.md R274 to R277). -/
theorem blindStep_stats (f : Config → Stats → Stats) : BlindStep fun s => updateStats (f s.cfg) s := fun s => by
  simp [ungranted, updateStats, Function.comp_def]

theorem blindStep_beginMeasure (dev : AdcDev) (chan : AdcChan) (n : Nat) : BlindStep (beginMeasure dev chan n) := fun s => by
  simp [ungranted, beginMeasure, Function.comp_def]

theorem blindStep_storeSample (i : Nat) (x : Code) : BlindStep (storeSample i x) := fun s => by
  simp [ungranted, storeSample, Function.comp_def]

theorem blindStep_tookAccess : BlindStep tookAccess := fun s => by
  simp [ungranted, tookAccess, elapse, Function.comp_def]

theorem blindStep_tookXfer : BlindStep tookXfer := fun s => by simp [ungranted, tookXfer, elapse, Function.comp_def]

theorem blindStep_tookRx : BlindStep tookRx := fun s => by simp [ungranted, tookRx, Function.comp_def]

theorem blindStep_setTx (w : Word) : BlindStep (setTx w) := fun s => by simp [ungranted, setTx, Function.comp_def]

theorem blindStep_setRx (w : Word) : BlindStep (setRx w) := fun s => by simp [ungranted, setRx, Function.comp_def]

theorem blindStep_sampled (r : Reg) : BlindStep (sampled r) := fun s => by
  cases r <;> simp [ungranted, sampled, tookPads, Function.comp_def]

theorem blindStep_setLatch (k : BankIdx) (l : Latch) (v : Word) : BlindStep (setLatch k l v) := fun s => by
  cases l <;> simp [ungranted, setLatch, Function.comp_def]

/-! ### The checks and the accesses -/

/-- A part that does not read the elevation may choose what it does next. -/
theorem Blind.of_eq {α : Type} {f : State → State → Res α} (hread : ∀ s, f (ungranted s) = f s) (hf : ∀ s, Blind (f s)) :
    Blind fun s => f s s := fun s => by
  change ungrantedRes (f (ungranted s) (ungranted s)) = _
  rw [hread s]
  exact hf s s

theorem BlindStep.of_eq {f : State → State → State} (hread : ∀ s, f (ungranted s) = f s) (hf : ∀ s, BlindStep (f s)) :
    BlindStep fun s => f s s := fun s => by
  change ungranted (f (ungranted s) (ungranted s)) = _
  rw [hread s]
  exact hf s s

theorem Blind.ite {α : Type} {c : Prop} [Decidable c] {f g : State → Res α} (hf : Blind f) (hg : Blind g) :
    Blind fun s => if c then f s else g s := by
  split
  · exact hf
  · exact hg

theorem blind_checkIndex (idx : Field8) (n : Nat) : Blind (checkIndex idx n) := by
  unfold checkIndex
  split
  · exact blind_done _
  · exact blind_raised _

theorem blind_requireMapped : Blind requireMapped :=
  .of_eq (f := fun u s => if u.lc = .mapped then .done () s else .raised (.resourceAbsent .gpio) s) (fun _ => rfl)
    fun _ => .ite (blind_done _) (blind_raised _)

theorem blind_requireSpi : Blind requireSpi :=
  .of_eq (f := fun u s => if u.spi.cfg = .configured then .done () s else .raised (.resourceAbsent .spi) s) (fun _ => rfl)
    fun _ => .ite (blind_done _) (blind_raised _)

theorem blind_memRead (k : BankIdx) (r : Reg) : Blind (memRead k r) :=
  .of_eq (f := fun u s => if accessOk u then
      .done (regValue k r u) (logEvent (.read (regAddr u.cfg k r) (regValue k r u)) (sampled r (tookAccess s)))
    else .raised (.deviceIo (.register (regAddr u.cfg k r))) (logEvent (.accessFailed (regAddr u.cfg k r)) (tookAccess s)))
    (fun _ => by cases r <;> rfl) fun _ =>
      .ite ((blind_done _).comp ((blindStep_logEvent _).comp ((blindStep_sampled r).comp blindStep_tookAccess)))
        ((blind_raised _).comp ((blindStep_logEvent _).comp blindStep_tookAccess))

theorem blind_memWrite (k : BankIdx) (l : Latch) (v : Word) : Blind (memWrite k l v) :=
  .of_eq (f := fun u s => if accessOk u then
      .done () (setLatch k l v (logEvent (.write (regAddr u.cfg k l.toReg) v) (tookAccess s)))
    else .raised (.deviceIo (.register (regAddr u.cfg k l.toReg)))
      (logEvent (.accessFailed (regAddr u.cfg k l.toReg)) (tookAccess s)))
    (fun _ => rfl) fun _ =>
      .ite ((blind_done _).comp ((blindStep_setLatch k l v).comp ((blindStep_logEvent _).comp blindStep_tookAccess)))
        ((blind_raised _).comp ((blindStep_logEvent _).comp blindStep_tookAccess))

theorem blind_writeLevel (g : Line) (v : Bool) : Blind (writeLevel g v) :=
  blind_requireMapped.andThen fun _ => (blind_memRead (bankOf g) .dout).andThen fun _ => blind_memWrite _ _ _

theorem blind_spiXfer (w : Word) : Blind (spiXfer w) :=
  blind_requireSpi.andThen fun _ => .of_eq (f := fun u s => if xferOk u then
      .done (rxWord u) (logEvent (.xfer w (rxWord u)) (setRx (rxWord u) (tookRx (tookXfer (setTx w s)))))
    else .raised (.deviceIo .spi) (logEvent (.xferFailed w) (tookXfer (setTx w s))))
    (fun _ => rfl) fun _ =>
      .ite ((blind_done _).comp ((blindStep_logEvent _).comp ((blindStep_setRx _).comp
          (blindStep_tookRx.comp (blindStep_tookXfer.comp (blindStep_setTx w))))))
        ((blind_raised _).comp ((blindStep_logEvent _).comp (blindStep_tookXfer.comp (blindStep_setTx w))))

/-! ### OSTEP1 and OMEASURE -/

theorem blind_writeDirection (d : Drive) (dir : StepDir) : Blind (writeDirection d dir) :=
  .of_eq (f := fun u s => match dirLevel u.cfg dir with
    | none => .done () s
    | some v => writeLevel (u.sig.dir.get d) v s) (fun _ => rfl) fun u => by
      cases dirLevel u.cfg dir with
      | none => exact blind_done _
      | some v => exact blind_writeLevel _ v

/-- A write of the step line, then a wait, between two phases (spec/45_motion.md R245). -/
theorem blind_stepLevel (d : Drive) (v : Bool) (p : Phase) : Blind fun s => writeLevel (s.sig.step.get d) v (enter p s) :=
  .of_eq (f := fun u s => writeLevel (u.sig.step.get d) v (enter p s)) (fun _ => rfl)
    fun _ => (blind_writeLevel _ v).comp (blindStep_enter p)

theorem blindStep_stepWait (freq : Nat) (p : Phase) : BlindStep fun s => busyWait (halfTicks s.cfg.clkHz freq) (enter p s) :=
  .of_eq (f := fun u s => busyWait (halfTicks u.cfg.clkHz freq) (enter p s)) (fun _ => rfl)
    fun _ => (blindStep_busyWait _).comp (blindStep_enter p)

theorem blind_stepPulse (d : Drive) (dir : StepDir) (freq : Nat) : Blind (stepPulse d dir freq) := by
  have hstart : BlindStep fun s => enter .stDir (elevate (enter .stPrio s)) :=
    (blindStep_enter .stDir).comp (blindStep_elevate.comp (blindStep_enter .stPrio))
  have hend : BlindStep fun s : State => yieldCpu (release (enter .stYield s)) :=
    blindStep_yieldCpu.comp (blindStep_release.comp (blindStep_enter .stYield))
  exact ((blind_writeDirection d dir).comp hstart).andThen fun _ =>
    (blind_stepLevel d true .stHigh).andThen fun _ =>
      ((blind_stepLevel d false .stLow).andThen fun _ =>
        (blind_done []).comp (hend.comp (blindStep_stepWait freq .stWait2))).comp (blindStep_stepWait freq .stWait1)

theorem blind_checkMeasureArgs (dev chan : Field8) (n : Word) : Blind (checkMeasureArgs dev chan n) :=
  .of_eq (f := fun u s => if n = 0 ∨ u.cfg.nmax < n.toNat then .rejected .badArg s
    else (checkIndex dev 2 s).andThen fun d t => (checkIndex chan 12 t).andThen fun c v => .done (d, c) v)
    (fun _ => rfl) fun _ => .ite (blind_rejected _)
      ((blind_checkIndex dev 2).andThen fun d => (blind_checkIndex chan 12).andThen fun c => blind_done (d, c))

theorem blind_selectDevice (dev : AdcDev) : Blind (selectDevice dev) := by
  have hlevel (line : SignalTable Line → Line) (v : Config → Bool) : Blind fun s => writeLevel (line s.sig) (v s.cfg) s :=
    .of_eq (f := fun u s => writeLevel (line u.sig) (v u.cfg) s) (fun _ => rfl) fun _ => blind_writeLevel _ _
  exact (hlevel (·.adcSel1) fun c => (c.adcMuxCode.get dev).1).andThen fun _ =>
    hlevel (·.adcSel2) fun c => (c.adcMuxCode.get dev).2

/-- A transfer of a word of the parameters (spec/46_measurement.md R271). -/
theorem blind_command (word : Config → Word) (p : Phase) : Blind fun s => spiXfer (word s.cfg) (enter p s) :=
  .of_eq (f := fun u s => spiXfer (word u.cfg) (enter p s)) (fun _ => rfl) fun _ => (blind_spiXfer _).comp (blindStep_enter p)

theorem blindStep_sampleStored (i : Nat) (settleCount r : Word) :
    BlindStep fun s => storeSample i (decodeSample s.cfg r) (settle settleCount s) :=
  .of_eq (f := fun u s => storeSample i (decodeSample u.cfg r) (settle settleCount s)) (fun _ => rfl)
    fun _ => (blindStep_storeSample i _).comp (blindStep_settle _)

theorem blind_captureSamples (chan : AdcChan) (settleCount : Word) (m : Nat) :
    ∀ i, Blind (captureSamples chan settleCount m i) := by
  induction m with
  | zero => exact fun _ => blind_done ()
  | succ m ih =>
    exact fun i => (blind_command (·.cmdSelect.get chan) (.msSample i)).andThen fun r =>
      (ih (i + 1)).comp (blindStep_sampleStored i settleCount r)

theorem blind_acquire (dev : AdcDev) (chan : AdcChan) (n : Nat) (settleCount : Word) : Blind (acquire dev chan n settleCount) := by
  have hstart : BlindStep fun s => enter .msMux (elevate (enter .msPrio (beginMeasure dev chan n s))) :=
    (blindStep_enter .msMux).comp
      (blindStep_elevate.comp ((blindStep_enter .msPrio).comp (blindStep_beginMeasure dev chan n)))
  have hconfig : Blind fun s => spiXfer s.cfg.cmdConfig s :=
    .of_eq (f := fun u s => spiXfer u.cfg.cmdConfig s) (fun _ => rfl) fun _ => blind_spiXfer _
  exact ((blind_selectDevice dev).comp hstart).andThen fun _ =>
    (blind_command (·.cmdInit) .msInit).andThen fun _ => hconfig.andThen fun _ =>
      (blind_command (·.cmdSelect.get chan) .msBurn).andThen fun _ =>
        (blind_captureSamples chan settleCount n 0).comp (blindStep_settle settleCount)

theorem blindStep_secondPass : BlindStep secondPass :=
  .of_eq (f := fun u s => if u.st.atHome then updateStats (fun st => refilter u.cfg (vote u.cfg st)) (enter .msPass2 s) else s)
    (fun _ => rfl) fun u => by
      split
      · exact (blindStep_updateStats _).comp (blindStep_enter .msPass2)
      · exact fun s => by simp

theorem blind_analyse : Blind analyse := by
  have hhome : BlindStep fun s => updateStats (homeTest s.cfg) (enter .msHome s) :=
    .of_eq (f := fun u s => updateStats (homeTest u.cfg) (enter .msHome s)) (fun _ => rfl)
      fun _ => (blindStep_updateStats _).comp (blindStep_enter .msHome)
  have hend : BlindStep fun s : State => yieldCpu (release (enter .msYield s)) :=
    blindStep_yieldCpu.comp (blindStep_release.comp (blindStep_enter .msYield))
  have hanswer : Blind fun s => Res.done (measureWords s.cfg s.st) (yieldCpu (release (enter .msYield s))) :=
    .of_eq (f := fun u s => .done (measureWords u.cfg u.st) (yieldCpu (release (enter .msYield s)))) (fun _ => rfl)
      fun _ => (blind_done _).comp hend
  exact hanswer.comp ((blindStep_enter .msOut).comp (blindStep_secondPass.comp
    (hhome.comp ((blindStep_updateStats firstPass).comp (blindStep_enter .msPass1)))))

/-- The part of OSTEP1 before its end (spec/45_motion.md R245). -/
theorem blind_ostep1 (dir : Field8) (freq : Word) (drive : Field8) : Blind fun s => match stepDirOf dir with
    | none => .rejected .badArg s
    | some sd =>
      if freq = 0 then .rejected .badArg s
      else (checkIndex drive 6 s).andThen fun d t => stepPulse d sd freq.toNat t := by
  cases stepDirOf dir with
  | none => exact blind_rejected _
  | some sd => exact .ite (blind_rejected _) ((blind_checkIndex drive 6).andThen fun d => blind_stepPulse d sd freq.toNat)

/-- The part of OMEASURE before its end (spec/46_measurement.md R271). -/
theorem blind_omeasure (dev chan : Field8) (n settleCount : Word) : Blind fun s =>
    (checkMeasureArgs dev chan n s).andThen fun dc t => (acquire dc.1 dc.2 n.toNat settleCount t).andThen fun _ u => analyse u :=
  (blind_checkMeasureArgs dev chan n).andThen fun dc =>
    (blind_acquire dc.1 dc.2 n.toNat settleCount).andThen fun _ => blind_analyse

/-- The two operations that ask for elevation have a body that does not depend on the answer (spec/45_motion.md R248). -/
theorem exec_blind {i : Instr} (h : (∃ d r f, i = .ostep1 d r f) ∨ ∃ d c n x, i = .omeasure d c n x) :
    ∃ f, Blind f ∧ ∀ s, exec i s = finish (f s) := by
  obtain ⟨d, r, f, rfl⟩ | ⟨d, c, n, x, rfl⟩ := h
  · exact ⟨_, blind_ostep1 r f d, fun _ => rfl⟩
  · exact ⟨_, blind_omeasure d c n x, fun _ => rfl⟩

/-- Ends that differ in the elevation alone complete alike (spec/40_gpio_register_access.md R130). -/
theorem ungranted_complete {r q : Res (List Word)} (h : ungrantedRes r = ungrantedRes q) :
    ungranted (complete r) = ungranted (complete q) := by
  have hcomplete (p : Res (List Word)) : ungranted (complete p) = complete (ungrantedRes p) := by
    cases p with
    | done ws s => rfl
    | rejected reason s => rfl
    | raised f s => cases hf : f.halts <;> simp [complete, ungrantedRes, takeFault, hf, respond, ungranted]
  rw [hcomplete, hcomplete, h]

/-- A state is its elevation and the rest. -/
theorem eq_of_ungranted {t u : State} (hprio : u.prio = t.prio) (h : ungranted u = ungranted t) :
    u = { t with prioFails := u.prioFails, trace := u.trace, env := { t.env with prioGranted := u.env.prioGranted } } := by
  have hu : u = { ungranted u with
    prio := u.prio
    prioFails := u.prioFails
    trace := u.trace
    env := { (ungranted u).env with prioGranted := u.env.prioGranted } } := rfl
  rw [h, hprio] at hu
  exact hu

/-- Settles O50: with the elevation left out, both runs complete alike (`exec_blind`). -/
theorem elevationChangesNothing : Obligations.ElevationChangesNothing := by
  intro s t u i q hi ht hu
  obtain ⟨f, hf, hexec⟩ := exec_blind hi
  rw [hexec, finish_next, Host.Outcome.next.injEq] at ht hu
  have hsame : ungranted u = ungranted t := by
    rw [← ht, ← hu]
    exact ungranted_complete (hf.congr rfl)
  have hprio : u.prio = t.prio := by rw [← ht, ← hu, complete_prio, complete_prio]
  exact ⟨eq_of_ungranted hprio hsame, congrArg State.trace hsame⟩

end Sys2Proof.Machine
end

section
/-! PROOFS. The boundary pseudo-operations: the frames each issues, where issuing stops, and that no frame issued halts the block
(spec/30_encoding.md R118 to R124, spec/60_exceptions.md R305). -/

namespace Sys2Proof.Machine

/-! ### Operands -/

/-- A one-based operand in range is the zero-based index (spec/30_encoding.md R118). -/
theorem zeroBased_in {n : Nat} (d : Fin n) : zeroBased (d.val + 1 : Nat) n = .ok (BitVec.ofNat 8 d.val) := by
  have hd := d.isLt
  have hrange : (1 : Int) ≤ (d.val + 1 : Nat) ∧ ((d.val + 1 : Nat) : Int) ≤ n := by omega
  have hindex : ((d.val + 1 : Nat) : Int) - 1 = (d.val : Int) := by omega
  rw [zeroBased, if_pos hrange, hindex, BitVec.ofInt_natCast]

theorem zeroBased_out {x : Int} {n : Nat} (h : x < 1 ∨ (n : Int) < x) : zeroBased x n = .error .badIndex :=
  if_neg (by omega)

/-- What an operand that is accepted stands for. -/
theorem of_zeroBased_ok {x : Int} {n : Nat} {j : Field8} (hn : n ≤ 256) (h : zeroBased x n = .ok j) : j.toNat < n := by
  by_cases hx : 1 ≤ x ∧ x ≤ n
  · obtain ⟨d, rfl⟩ : ∃ d : Fin n, x = (d.val + 1 : Nat) := ⟨⟨(x - 1).toNat, by omega⟩, by simp only; omega⟩
    rw [zeroBased_in] at h
    obtain rfl := Except.ok.inj h
    rw [BitVec.toNat_ofNat, Nat.mod_eq_of_lt (by omega)]
    exact d.isLt
  · rw [zeroBased_out (by omega)] at h
    cases h

theorem reason_of_zeroBased {x : Int} {n : Nat} {r : Reason} (h : zeroBased x n = .error r) : r = .badIndex := by
  unfold zeroBased at h
  split at h
  · cases h
  · exact (Except.error.inj h).symm

/-- The targets with one line each, with their codes (spec/44_power_enable.md R221). -/
theorem targetCode_plain {t : PlainTarget} {code : Field8} (h : (t, code) ∈ [(PlainTarget.board, 0#8), (.encoders, 1#8),
    (.sensors, 2#8), (.drivebank, 4#8), (.hicurrent, 5#8), (.sr, 6#8)]) : targetCode t.target = code := by
  simp only [List.mem_cons, List.not_mem_nil, or_false, Prod.mk.injEq] at h
  obtain ⟨rfl, rfl⟩ | ⟨rfl, rfl⟩ | ⟨rfl, rfl⟩ | ⟨rfl, rfl⟩ | ⟨rfl, rfl⟩ | ⟨rfl, rfl⟩ := h <;> rfl

/-! ### Answers -/

theorem readAnswer_ok (ws : List Word) : readAnswer (some (0x00000000#32 :: ws)) = .result [ws] := rfl

/-- The status of a rejection is 1 and its reason stands above bit 16 (spec/30_encoding.md R108). -/
theorem rejected_fields (reason : Field8) :
    (0x01000000#32 ||| (reason.zeroExtend 32 <<< 16)).extractLsb' 24 8 = 1#8 ∧
      (0x01000000#32 ||| (reason.zeroExtend 32 <<< 16)).extractLsb' 16 8 = reason := by
  constructor <;> (apply BitVec.eq_of_getLsbD_eq; intro j hj; interval_cases j <;> simp)

theorem readAnswer_rejected (reason : Field8) :
    readAnswer (some [0x01000000#32 ||| (reason.zeroExtend 32 <<< 16)]) = .rejected reason := by
  obtain ⟨hstatus, hreason⟩ := rejected_fields reason
  rw [readAnswer, hstatus, hreason]
  rfl

theorem readAnswer_deviceFault {out : Option (List Word)} (h : out = some [0x02000000#32] ∨ out = none) :
    readAnswer out = .deviceFault := by
  obtain rfl | rfl := h <;> rfl

/-! ### Issuing frames -/

/-- What is reported of later frames, with the values of earlier ones before theirs. -/
def withValues (values : List (List Word)) : Report × State → Report × State
  | (.result more, u) => (.result (values ++ more), u)
  | (.rejected reason, u) => (.rejected reason, u)
  | (.deviceFault, u) => (.deviceFault, u)

theorem withValues_nil (r : Report × State) : withValues [] r = r := by
  obtain ⟨report, u⟩ := r
  cases report <;> rfl

theorem withValues_cons (ws : List Word) (values : List (List Word)) (r : Report × State) :
    withValues [ws] (withValues values r) = withValues (ws :: values) r := by
  obtain ⟨report, u⟩ := r
  cases report <;> rfl

/-- A frame that is answered OK gives its values, and the rest are issued. -/
theorem issue_answered {i : Instr} {s u : State} {ws : List Word} (hstep : step { s with host := .frame (encode i) :: s.host } = .next u)
    (hout : u.out = some (0x00000000#32 :: ws)) (rest : List Instr) : issue (i :: rest) s = withValues [ws] (issue rest u) := by
  rw [issue, hstep]
  dsimp only
  rw [hout, readAnswer_ok]
  dsimp only
  obtain ⟨report, v⟩ := issue rest u
  cases report <;> rfl

/-- Frames answered OK give their values, and the rest are issued (spec/30_encoding.md R119). -/
theorem issue_append {before : List Instr} {s t : State} {values : List (List Word)} (h : AnsweredOk before s values t)
    (rest : List Instr) : issue (before ++ rest) s = withValues values (issue rest t) := by
  induction before generalizing s values with
  | nil =>
    obtain ⟨rfl, rfl⟩ := h
    exact (withValues_nil _).symm
  | cons i is ih =>
    obtain ⟨u, ws, more, hstep, hout, rfl, hmore⟩ := h
    rw [List.cons_append, issue_answered hstep hout, ih hmore, withValues_cons]

/-- The frame that is not answered OK ends the issuing with what it reports (spec/30_encoding.md R119, R124). -/
theorem issue_rejected {i : Instr} {t u : State} {reason : Field8}
    (hstep : step { t with host := .frame (encode i) :: t.host } = .next u) (hout : readAnswer u.out = .rejected reason)
    (rest : List Instr) : issue (i :: rest) t = (.rejected reason, u) := by
  rw [issue, hstep]
  dsimp only
  rw [hout]

theorem issue_deviceFault {i : Instr} {t u : State} (hstep : step { t with host := .frame (encode i) :: t.host } = .next u)
    (hout : readAnswer u.out = .deviceFault) (rest : List Instr) : issue (i :: rest) t = (.deviceFault, u) := by
  rw [issue, hstep]
  dsimp only
  rw [hout]

theorem issue_halted {i : Instr} {t : State} {f : Fault}
    (hstep : step { t with host := .frame (encode i) :: t.host } = .fault f) (rest : List Instr) :
    issue (i :: rest) t = (.deviceFault, t) := by
  rw [issue, hstep]

/-- A pseudo-operation whose frames are named reports their answers, with the words its caller sees. -/
theorem runPseudo_ok {p : Pseudo} {s : State} {is : List Instr} (h : expand s.cfg p = .ok is) :
    runPseudo p s = ((issue is s).1.mapValues p.seen, (issue is s).2) := by rw [runPseudo, h]

theorem mapValues_id (r : Report) : r.mapValues (fun ws => ws) = r := by cases r <;> simp [Report.mapValues]

/-- Only a named measurement hides value words (spec/30_encoding.md R123). -/
theorem seen_eq {p : Pseudo} (h : ∀ q n x, p ≠ .measNamed q n x) : p.seen = fun ws => ws := by
  cases p with
  | measNamed q n x => exact absurd rfl (h q n x)
  | _ => rfl

/-! ### The frames -/

theorem expand_measNamed {c : Config} {q : Quantity} {dc : AdcDev × AdcChan} (h : measChanOf c.measChan q = some dc) (n x : Word) :
    expand c (.measNamed q n x) = .ok [.omeasure (BitVec.ofNat 8 dc.1.val) (BitVec.ofNat 8 dc.2.val) n x] := by rw [expand, h]

/-- The pair of a named quantity (spec/30_encoding.md R123). -/
theorem measChanOf_eq {m : MeasChan} {q : Quantity} {dc : AdcDev × AdcChan}
    (h : (q, dc) ∈ [(Quantity.tempOnboard, m.tempOnboard), (.tempExternal, m.tempExternal), (.refLow, m.refLow),
      (.refMid, m.refMid), (.refHigh, m.refHigh)] ∨ ∃ j, q = .encoder j ∧ m.encoder[j]? = some dc) :
    measChanOf m q = some dc := by
  obtain h | ⟨j, rfl, hj⟩ := h
  · simp only [List.mem_cons, List.not_mem_nil, or_false, Prod.mk.injEq] at h
    obtain ⟨rfl, rfl⟩ | ⟨rfl, rfl⟩ | ⟨rfl, rfl⟩ | ⟨rfl, rfl⟩ | ⟨rfl, rfl⟩ := h <;> rfl
  · exact hj

/-- STEP issues as many pulses as its count says, in the direction of its sign (spec/30_encoding.md R119). -/
theorem expand_step (c : Config) (d : Drive) (count : Int) (freq : Word) : expand c (.step (d.val + 1 : Nat) count freq) =
    .ok (List.replicate count.natAbs (.ostep1 (BitVec.ofNat 8 d.val) (if 0 < count then 1#8 else 2#8) freq)) := by
  rw [expand, zeroBased_in]
  split <;> rfl

theorem expandUsb_port (op : Field8 → Field8 → Instr) (u : Usb) :
    expandUsb op (.port (u.val + 1 : Nat)) = .ok [op 3 (BitVec.ofNat 8 u.val)] := by
  rw [expandUsb, zeroBased_in]
  rfl

theorem expandDrive_drive (op : Field8 → Field8 → Instr) (d : Drive) :
    expandDrive op (d.val + 1 : Nat) = .ok [op 7 (BitVec.ofNat 8 d.val)] := by
  rw [expandDrive, zeroBased_in]
  rfl

/-- MEAS with channel 0 measures the first eight channels in order (spec/30_encoding.md R122). -/
theorem expand_meas_all (c : Config) (d : AdcDev) (n x : Word) : expand c (.meas (d.val + 1 : Nat) 0 n x) =
    .ok ((List.range 8).map fun k => .omeasure (BitVec.ofNat 8 d.val) (BitVec.ofNat 8 k) n x) := by
  rw [expand, zeroBased_in]
  rfl

theorem expand_meas_channel (c : Config) (d : AdcDev) {ch : AdcChan} (h : ch ≠ 0) (n x : Word) :
    expand c (.meas (d.val + 1 : Nat) (ch.val : Int) n x) =
      .ok [.omeasure (BitVec.ofNat 8 d.val) (BitVec.ofNat 8 ch.val) n x] := by
  have hrange : ¬ ((ch.val : Int) < 0 ∨ 11 < (ch.val : Int)) := by omega
  have hne : ¬ (ch.val : Int) = 0 := fun hc => h (Fin.ext (Int.ofNat.inj hc))
  rw [expand, zeroBased_in, Except.bind, if_neg hrange, if_neg hne, BitVec.ofInt_natCast]

/-- The reference quantities are on fixed channels (spec/00_scope.md R7). -/
theorem valid_references {c : Config} (h : c.valid = true) :
    c.measChan.refLow.2 = 9 ∧ c.measChan.refMid.2 = 10 ∧ c.measChan.refHigh.2 = 11 := by
  have hcodes := valid_codes h
  simp only [Config.validCodes, Bool.and_eq_true, beq_iff_eq] at hcodes
  obtain ⟨⟨⟨-, hlow⟩, hmid⟩, hhigh⟩ := hcodes
  exact ⟨hlow, hmid, hhigh⟩

/-- Settles O59: the frames are those of the operand's index (`zeroBased_in`), and issuing goes on as long as they are answered OK
(`issue_append`). -/
theorem boundaryFrames : Obligations.BoundaryFrames := by
  refine ⟨expand_step, fun _ u => ⟨expandUsb_port .oena u, expandUsb_port .odis u, expandUsb_port .oisena u⟩,
    fun _ => ⟨rfl, rfl⟩, fun _ d => ⟨expandDrive_drive .oena d, expandDrive_drive .odis d, expandDrive_drive .oisena d⟩,
    fun _ t code h => ?_, fun _ _ => ⟨rfl, rfl, rfl⟩,
    fun c d n x => ⟨expand_meas_all c d n x, fun _ h => expand_meas_channel c d h n x⟩,
    fun _ _ _ n x h => expand_measNamed (measChanOf_eq h) n x, fun _ => valid_references, fun is s t values h => ?_,
    fun before rest i s t values h => ⟨fun u reason hstep hout => ?_, fun u hstep hout => ?_, fun hstep => ?_⟩,
    fun p s is h hp => ?_, fun q n x s is h => ?_⟩
  · rw [← targetCode_plain h]
    exact ⟨rfl, rfl, rfl⟩
  · have hissue := issue_append h []
    rw [List.append_nil] at hissue
    rw [hissue, issue, withValues, List.append_nil]
  · rw [issue_append h, issue_rejected hstep (by rw [hout, readAnswer_rejected])]
    rfl
  · rw [issue_append h, issue_deviceFault hstep (readAnswer_deviceFault hout)]
    rfl
  · rw [issue_append h, issue_halted hstep]
    rfl
  · rw [runPseudo_ok h, seen_eq hp, mapValues_id]
  · rw [runPseudo_ok h]
    cases (issue is s).1 <;> rfl

end Sys2Proof.Machine
end

section
/-! PROOFS. An index out of range is refused at the boundary, and no frame the boundary issues halts the block
(spec/30_encoding.md R118, R109, spec/60_exceptions.md R305, R308). -/

namespace Sys2Proof.Machine

/-! ### Parts that raise no halting fault -/

/-- A part that, if it faults, faults with a cause that does not halt the block (spec/60_exceptions.md R301). -/
def Res.Survives {α : Type} : Res α → Prop
  | .done _ _ | .rejected _ _ => True
  | .raised f _ => f.halts = false

section Parts

variable {α β : Type} {s : State}

/-- Two parts in sequence. -/
theorem survives_andThen {r : Res α} {k : α → State → Res β} (h : r.Survives) (hk : ∀ a t, (k a t).Survives) :
    (r.andThen k).Survives := by
  cases r with
  | done a t => exact hk a t
  | rejected reason t => trivial
  | raised f t => exact h

theorem requireMapped_survives : (requireMapped s).Survives := by unfold requireMapped; split <;> trivial
theorem memRead_survives (k : BankIdx) (r : Reg) : (memRead k r s).Survives := by unfold memRead; split <;> trivial
theorem memWrite_survives (k : BankIdx) (l : Latch) (v : Word) : (memWrite k l v s).Survives := by
  unfold memWrite; split <;> trivial
theorem readLevel_survives (g : Line) : (readLevel g s).Survives :=
  survives_andThen requireMapped_survives fun _ _ => survives_andThen (memRead_survives _ _) fun _ _ => trivial
theorem writeLevel_survives (g : Line) (v : Bool) : (writeLevel g v s).Survives :=
  survives_andThen requireMapped_survives fun _ _ => survives_andThen (memRead_survives _ _) fun _ _ => memWrite_survives _ _ _

theorem spiXfer_survives (w : Word) : (spiXfer w s).Survives := by
  obtain ⟨-, -, e⟩ | ⟨-, e⟩ | ⟨-, -, e⟩ := spiXfer_cases w s <;> rw [e] <;> trivial

theorem captureSamples_survives (chan : AdcChan) (settleCount : Word) (m i : Nat) :
    (captureSamples chan settleCount m i s).Survives := by
  induction m generalizing i s with
  | zero => trivial
  | succ m ih => exact survives_andThen (spiXfer_survives _) fun _ _ => ih (i + 1)

theorem writeDirection_survives (d : Drive) (dir : StepDir) : (writeDirection d dir s).Survives := by
  unfold writeDirection
  split
  · trivial
  · exact writeLevel_survives _ _

theorem stepPulse_survives (d : Drive) (dir : StepDir) (freq : Nat) : (stepPulse d dir freq s).Survives :=
  survives_andThen (writeDirection_survives d dir) fun _ _ => survives_andThen (writeLevel_survives _ _) fun _ _ =>
    survives_andThen (writeLevel_survives _ _) fun _ _ => trivial

theorem acquire_survives (dev : AdcDev) (chan : AdcChan) (n : Nat) (settleCount : Word) :
    (acquire dev chan n settleCount s).Survives :=
  survives_andThen (survives_andThen (writeLevel_survives _ _) fun _ _ => writeLevel_survives _ _) fun _ _ =>
    survives_andThen (spiXfer_survives _) fun _ _ => survives_andThen (spiXfer_survives _) fun _ _ =>
      survives_andThen (spiXfer_survives _) fun _ _ => captureSamples_survives _ _ _ _

/-- Only an index out of range halts (spec/41_pin_layout.md R164). -/
theorem checkIndex_survives {idx : Field8} {n : Nat} (h : idx.toNat < n) : (checkIndex idx n s).Survives := by
  rw [checkIndex_in h]
  trivial

theorem checkMeasureArgs_survives {dev chan : Field8} (hd : dev.toNat < 2) (hc : chan.toNat < 12) (n : Word) :
    (checkMeasureArgs dev chan n s).Survives := by
  unfold checkMeasureArgs
  split
  · trivial
  · exact survives_andThen (checkIndex_survives hd) fun _ _ => survives_andThen (checkIndex_survives hc) fun _ _ => trivial

theorem powerLine_survives {target idx : Field8} (h : (powerLineOf s.sig target idx).isSome = true) :
    (powerLine target idx s).Survives := by
  obtain ⟨g, hg⟩ := Option.isSome_iff_exists.1 h
  rw [powerLine_line hg]
  trivial

end Parts

/-! ### Frames with every index in range -/

/-- An instruction of the boundary whose indices name a line, a drive, a device and a channel (spec/60_exceptions.md R305). -/
def IndicesInRange (sig : SignalTable Line) : Instr → Prop
  | .oena target idx | .odis target idx | .oisena target idx => (powerLineOf sig target idx).isSome = true
  | .ostep1 drive _ _ => drive.toNat < 6
  | .omeasure dev chan _ _ => dev.toNat < 2 ∧ chan.toNat < 12
  | .osetustep _ | .ogetustep | .ophreset => True
  | .gopen | .gmap | .grdlvl _ | .gwrlvl _ _ | .ggetdir _ | .gsetdir _ _ | .gcfgall | .grelease | .pconn _ | .pdefdir _ | .pstep _
  | .pdir _ | .pen _ | .pusboff _ | .scfg | .sxfer _ | .aencinit | .aenccfg | .aencsel _ | .aencfifo | .aencpd | .adecode _
  | .araw2v _ _ => False

theorem wellFormed_of_indicesInRange {sig : SignalTable Line} {i : Instr} (h : IndicesInRange sig i) : WellFormed i = true := by
  cases i <;> simp_all [WellFormed, IndicesInRange]

theorem exec_survives {s : State} {i : Instr} (h : IndicesInRange s.sig i) : ∃ r, exec i s = finish r ∧ r.Survives := by
  cases i with
  | oena target idx =>
    exact ⟨_, rfl, survives_andThen (powerLine_survives h) fun _ _ => survives_andThen (writeLevel_survives _ _) fun _ _ => trivial⟩
  | odis target idx =>
    exact ⟨_, rfl, survives_andThen (powerLine_survives h) fun _ _ => survives_andThen (writeLevel_survives _ _) fun _ _ => trivial⟩
  | oisena target idx =>
    exact ⟨_, rfl, survives_andThen (powerLine_survives h) fun _ _ => survives_andThen (readLevel_survives _) fun _ _ => trivial⟩
  | osetustep mode =>
    refine ⟨_, rfl, ?_⟩
    split
    · trivial
    · exact survives_andThen (writeLevel_survives _ _) fun _ _ => survives_andThen (writeLevel_survives _ _) fun _ _ => trivial
  | ogetustep =>
    exact ⟨_, rfl, survives_andThen (readLevel_survives _) fun _ _ => survives_andThen (readLevel_survives _) fun _ _ => trivial⟩
  | ostep1 drive dir freq =>
    refine ⟨_, rfl, ?_⟩
    split
    · trivial
    · split
      · trivial
      · exact survives_andThen (checkIndex_survives h) fun _ _ => stepPulse_survives _ _ _
  | ophreset =>
    exact ⟨_, rfl, survives_andThen (writeLevel_survives _ _) fun _ _ => survives_andThen (writeLevel_survives _ _) fun _ _ => trivial⟩
  | omeasure dev chan n settleCount =>
    obtain ⟨hd, hc⟩ := h
    exact ⟨_, rfl, survives_andThen (checkMeasureArgs_survives hd hc n) fun _ _ =>
      survives_andThen (acquire_survives _ _ _ _) fun _ _ => trivial⟩
  | _ => exact h.elim

/-- A body that raises no halting fault is answered (spec/60_exceptions.md R310). -/
theorem Res.Survives.complete_out {r : Res (List Word)} (h : r.Survives) : (complete r).out ≠ none := by
  cases r with
  | done ws t => exact Option.some_ne_none _
  | rejected reason t => exact Option.some_ne_none _
  | raised f t =>
    rw [complete, takeFault_device h]
    exact Option.some_ne_none _

/-- With every index in range the block goes on (spec/60_exceptions.md R305). -/
theorem exec_not_halted {s t : State} {i : Instr} (h : IndicesInRange s.sig i) (hfree : s.fault.halted = false)
    (hexec : exec i s = .next t) : t.fault.halted = false := by
  obtain ⟨r, hr, hsurvives⟩ := exec_survives h
  obtain ⟨u, hu, -, hout⟩ := responseFrames i s hfree
  obtain rfl : u = t := Host.Outcome.next.inj (hu.symm.trans hexec)
  obtain rfl : complete r = u := Host.Outcome.next.inj (hr.symm.trans hu)
  exact Bool.eq_false_iff.2 fun hhalted => hsurvives.complete_out (hout.2 hhalted)

/-! ### The frames of a pseudo-operation -/

theorem of_map_ok {α β : Type} {f : α → β} {e : Except Reason α} {b : β} (h : e.map f = .ok b) : ∃ a, e = .ok a ∧ f a = b := by
  cases e with
  | ok a => exact ⟨a, rfl, Except.ok.inj h⟩
  | error r => cases h

theorem of_map_error {α β : Type} {f : α → β} {e : Except Reason α} {r : Reason} (h : e.map f = .error r) : e = .error r := by
  cases e with
  | ok a => cases h
  | error r' => exact congrArg Except.error (Except.error.inj h)

section Frames

variable {sig : SignalTable Line}

theorem powerLineOf_usb {idx : Field8} (h : idx.toNat < 7) : (powerLineOf sig (targetCode .usb) idx).isSome = true :=
  congrArg Option.isSome (dif_pos h)

theorem powerLineOf_drive {idx : Field8} (h : idx.toNat < 6) : (powerLineOf sig (targetCode .drive) idx).isSome = true :=
  congrArg Option.isSome (dif_pos h)

theorem powerLineOf_plain (t : PlainTarget) : (powerLineOf sig (targetCode t.target) 0).isSome = true := by cases t <;> rfl

variable {op : Field8 → Field8 → Instr} (hop : ∀ t j, (powerLineOf sig t j).isSome = true → IndicesInRange sig (op t j))

include hop

theorem expandUsb_inRange {p : UsbSel} {is : List Instr} (h : expandUsb op p = .ok is) : ∀ i ∈ is, IndicesInRange sig i := by
  cases p with
  | port usb1 =>
    obtain ⟨j, hj, rfl⟩ := of_map_ok h
    have hlt : j.toNat < 7 := of_zeroBased_ok (by decide) hj
    exact List.forall_mem_singleton.2 (hop _ _ (powerLineOf_usb hlt))
  | all =>
    obtain rfl := Except.ok.inj h
    refine List.forall_mem_map.2 fun j hj => hop _ _ (powerLineOf_usb ?_)
    have hports : ∀ j ∈ [0#8, 1, 2, 3, 4, 5, 6], j.toNat < 7 := by decide
    exact hports j hj

theorem expandDrive_inRange {drive1 : Int} {is : List Instr} (h : expandDrive op drive1 = .ok is) :
    ∀ i ∈ is, IndicesInRange sig i := by
  obtain ⟨j, hj, rfl⟩ := of_map_ok h
  have hlt : j.toNat < 6 := of_zeroBased_ok (by decide) hj
  exact List.forall_mem_singleton.2 (hop _ _ (powerLineOf_drive hlt))

theorem plain_inRange {t : PlainTarget} {is : List Instr} (h : .ok [op (targetCode t.target) 0] = Except.ok (ε := Reason) is) :
    ∀ i ∈ is, IndicesInRange sig i := by
  obtain rfl := Except.ok.inj h
  exact List.forall_mem_singleton.2 (hop _ _ (powerLineOf_plain t))

end Frames

theorem expandMeas_inRange {c : Config} {sig : SignalTable Line} {dev1 ch : Int} {n x : Word} {is : List Instr}
    (h : expand c (.meas dev1 ch n x) = .ok is) : ∀ i ∈ is, IndicesInRange sig i := by
  rw [expand] at h
  cases hdev : zeroBased dev1 2 with
  | error r =>
    rw [hdev] at h
    cases h
  | ok d =>
    have hd : d.toNat < 2 := of_zeroBased_ok (by decide) hdev
    rw [hdev, Except.bind] at h
    split_ifs at h with hout hall
    · obtain rfl := Except.ok.inj h
      refine List.forall_mem_map.2 fun k hk => ⟨hd, ?_⟩
      have hchannels : ∀ k ∈ [0#8, 1, 2, 3, 4, 5, 6, 7], k.toNat < 12 := by decide
      exact hchannels k hk
    · obtain rfl := Except.ok.inj h
      refine List.forall_mem_singleton.2 ⟨hd, ?_⟩
      rw [BitVec.toNat_ofInt]
      omega

theorem expandNamed_inRange {c : Config} {sig : SignalTable Line} {q : Quantity} {n x : Word} {is : List Instr}
    (h : expand c (.measNamed q n x) = .ok is) : ∀ i ∈ is, IndicesInRange sig i := by
  rw [expand] at h
  split at h
  · cases h
  next dc _ =>
    obtain rfl := Except.ok.inj h
    obtain ⟨d, ch⟩ := dc
    refine List.forall_mem_singleton.2 ⟨?_, ?_⟩ <;> simp only [BitVec.toNat_ofNat] <;> omega

/-- Every frame the boundary issues has its indices in range (spec/60_exceptions.md R305). -/
theorem expand_inRange {c : Config} {sig : SignalTable Line} {p : Pseudo} {is : List Instr} (h : expand c p = .ok is) :
    ∀ i ∈ is, IndicesInRange sig i := by
  cases p with
  | step drive1 count freq =>
    obtain ⟨d, hd, rfl⟩ := of_map_ok h
    intro i hi
    obtain rfl := List.eq_of_mem_replicate hi
    exact of_zeroBased_ok (n := 6) (by decide) hd
  | usbEna p => exact expandUsb_inRange (op := .oena) (fun _ _ hline => hline) h
  | usbDis p => exact expandUsb_inRange (op := .odis) (fun _ _ hline => hline) h
  | usbQ usb1 => exact expandUsb_inRange (op := .oisena) (p := .port usb1) (fun _ _ hline => hline) h
  | drvEna drive1 => exact expandDrive_inRange (op := .oena) (fun _ _ hline => hline) h
  | drvDis drive1 => exact expandDrive_inRange (op := .odis) (fun _ _ hline => hline) h
  | drvQ drive1 => exact expandDrive_inRange (op := .oisena) (fun _ _ hline => hline) h
  | ena t => exact plain_inRange (op := .oena) (fun _ _ hline => hline) h
  | dis t => exact plain_inRange (op := .odis) (fun _ _ hline => hline) h
  | q t => exact plain_inRange (op := .oisena) (fun _ _ hline => hline) h
  | setUstep m =>
    obtain rfl := Except.ok.inj h
    exact List.forall_mem_singleton.2 trivial
  | getUstep =>
    obtain rfl := Except.ok.inj h
    exact List.forall_mem_singleton.2 trivial
  | resetPhase =>
    obtain rfl := Except.ok.inj h
    exact List.forall_mem_singleton.2 trivial
  | meas dev1 ch n x => exact expandMeas_inRange h
  | measNamed q n x => exact expandNamed_inRange h

/-! ### Rejections -/

theorem expandUsb_error {op : Field8 → Field8 → Instr} {p : UsbSel} {r : Reason} (h : expandUsb op p = .error r) :
    r = .badIndex := by
  cases p with
  | port usb1 => exact reason_of_zeroBased (of_map_error h)
  | all => cases h

theorem expandMeas_error {c : Config} {dev1 ch : Int} {n x : Word} {r : Reason} (h : expand c (.meas dev1 ch n x) = .error r) :
    r = .badIndex := by
  rw [expand] at h
  cases hdev : zeroBased dev1 2 with
  | error r' =>
    rw [hdev] at h
    obtain rfl := Except.error.inj h
    exact reason_of_zeroBased hdev
  | ok d =>
    rw [hdev, Except.bind] at h
    split_ifs at h
    exact (Except.error.inj h).symm

/-- The boundary rejects for an index alone (spec/30_encoding.md R109, R118). -/
theorem expand_error {c : Config} {p : Pseudo} {r : Reason} (h : expand c p = .error r) : r = .badIndex := by
  cases p with
  | step drive1 count freq => exact reason_of_zeroBased (of_map_error h)
  | usbEna p => exact expandUsb_error h
  | usbDis p => exact expandUsb_error h
  | usbQ usb1 => exact expandUsb_error (op := .oisena) (p := .port usb1) h
  | drvEna drive1 => exact reason_of_zeroBased (of_map_error h)
  | drvDis drive1 => exact reason_of_zeroBased (of_map_error h)
  | drvQ drive1 => exact reason_of_zeroBased (of_map_error h)
  | ena t => cases h
  | dis t => cases h
  | q t => cases h
  | setUstep m => cases h
  | getUstep => cases h
  | resetPhase => cases h
  | meas dev1 ch n x => exact expandMeas_error h
  | measNamed q n x =>
    rw [expand] at h
    split at h
    · exact (Except.error.inj h).symm
    · cases h

theorem expandMeas_out {c : Config} {dev1 ch : Int} {n x : Word} (h : dev1 < 1 ∨ 2 < dev1 ∨ ch < 0 ∨ 11 < ch) :
    expand c (.meas dev1 ch n x) = .error .badIndex := by
  rw [expand]
  by_cases hdev : dev1 < 1 ∨ 2 < dev1
  · rw [zeroBased_out (n := 2) hdev]
    rfl
  · have hch : ch < 0 ∨ 11 < ch := by omega
    cases hd : zeroBased dev1 2 with
    | error r => exact congrArg Except.error (reason_of_zeroBased hd)
    | ok d => exact if_pos hch

/-- Settles O60: only an index out of range is rejected (`expand_error`), and the frames issued have theirs in range
(`expand_inRange`), so none of them halts the block (`exec_not_halted`). -/
theorem boundaryNeverHalts : Obligations.BoundaryNeverHalts := by
  refine ⟨fun c drive1 count freq h => ?_, fun c usb1 h => ?_, fun _ _ _ _ _ h => expandMeas_out h, fun c j n x h => ?_,
    fun p s reason h => ?_, fun p s t is i h hi hfree => ?_⟩
  · have hzero : zeroBased drive1 6 = .error .badIndex := zeroBased_out h
    rw [expand, expand, expand, expand, expandDrive, expandDrive, expandDrive, hzero]
    exact ⟨rfl, rfl, rfl, rfl⟩
  · have hzero : zeroBased usb1 7 = .error .badIndex := zeroBased_out h
    rw [expand, expand, expand, expandUsb, expandUsb, expandUsb, hzero]
    exact ⟨rfl, rfl, rfl⟩
  · rw [expand, measChanOf, List.getElem?_eq_none h]
  · obtain rfl := expand_error h
    refine ⟨rfl, rfl, ?_⟩
    rw [runPseudo, h]
    rfl
  · have hindices : IndicesInRange s.sig i := expand_inRange h i hi
    exact ⟨wellFormed_of_indicesInRange hindices, exec_not_halted hindices hfree⟩

end Sys2Proof.Machine
end
